-- ==== Sys2Proof/Word.lean ====
section
/-! DEFINITION. The 64-bit Word, the bound of a shift amount, and nothing else
(00_scope.md R4, R5; 40_barrel_shifter.md R48). -/

namespace Sys2Proof

/-- The Word: "an opaque 64-bit unsigned bit-container", bit 0 least significant (R4, R5). Every operand
and every result is one. Bit `i` of `b` is `b.getLsbD i`. -/
abbrev Word := BitVec 64

/-- A shift amount of the barrel shifter: a number from 0 to 64 inclusive. R48 gives the shifter no meaning
above 64 and asks for the bound to be part of the function's type; it is this type. -/
abbrev Amount := Fin 65

end Sys2Proof
end

