-- ==== Sys2Proof/Config.lean ====
section
/-! DEFINITION. What the spec leaves to a parameter: `LSB64_POLICY` (00_scope.md R4, 40_barrel_shifter.md R58,
92_eei_decisions.md D8), the one named parameter. The block has no free value: every response is defined
(93_implementation_defined.md, section 1, last paragraph). -/

namespace Sys2Proof.Config

/-- The two values of `LSB64_POLICY`: what becomes of a get or put with width 0 and lsb 64 (R58). -/
inductive Lsb64Policy where
  /-- (0, 64) is a well-formed descriptor of the empty range [64, 64). -/
  | accept
  /-- (0, 64) is a malformed descriptor. -/
  | refuse
deriving DecidableEq, Repr

/-- The decided value (R4, D8): `accept`. Log entry 7. -/
def lsb64Policy : Lsb64Policy := .accept

end Sys2Proof.Config
end

