-- ==== Sys2Proof/Syntax.lean ====
section
/-! DEFINITION. The whole syntax of the block's interface: the instruction type (one constructor per row of
spec/opcode_table.json), the request and response ports (10_state.md R13, R14), the outcome as a sum type
(00_scope.md R7), and the caller's textual lines and programs (30_encoding.md R40, R44). -/

namespace Sys2Proof

/-- One constructor per row of the opcode table (30_encoding.md R33, R37, R39). An operation carries exactly
the operands its format names (R32); the ports it ignores are no part of it (10_state.md R16, log entry 8). -/
inductive Instr where
  /-- `fits-unsigned(value, width)`: header 1000, format F (R60). -/
  | fitsUnsigned (value width : Word)
  /-- `fits-signed(value, width)`: header 1001, format F (R62). -/
  | fitsSigned (value width : Word)
  /-- `get-unsigned(word, width, lsb)`: header 1010, format G (R70). -/
  | getUnsigned (word width lsb : Word)
  /-- `get-signed(word, width, lsb)`: header 1011, format G (R72). -/
  | getSigned (word width lsb : Word)
  /-- `put-unsigned(word, width, lsb, value)`: header 1100, format P (R80). -/
  | putUnsigned (word width lsb value : Word)
  /-- `put-signed(word, width, lsb, value)`: header 1101, format P (R82). -/
  | putSigned (word width lsb value : Word)
  /-- Reserved op code 6: header 1110, selects no operation (R37). -/
  | reserved6
  /-- Reserved op code 7: header 1111, selects no operation (R37). -/
  | reserved7
  /-- No request: header 0xxx (R39). -/
  | idle
deriving DecidableEq, Repr

/-- The cause of a fatal outcome (R7): a malformed descriptor, or a reserved op code. -/
inductive Cause where
  | descriptor
  | op
deriving DecidableEq, Repr

/-- The outcome of a transaction, as a sum type (R7): only `ok` carries a Word. What the output ports
`status` and `result` show is computed from it (30_encoding.md R36). -/
inductive Response where
  | idle
  | ok (r : Word)
  | noFit
  | fatal (c : Cause)
deriving DecidableEq, Repr

/-- The five values the `status` port ever takes (R36); codes 5, 6 and 7 are never driven. -/
inductive Status where
  | idle
  | ok
  | noFit
  | fatalDesc
  | fatalOp
deriving DecidableEq, Repr

/-- The six input ports (R13), all driven to definite values. -/
structure Request where
  valid : Bool
  op    : BitVec 3
  word  : Word
  width : Word
  lsb   : Word
  value : Word
deriving DecidableEq, Repr

/-- The six operations, as the textual form names them (R40). -/
inductive Operation where
  | fitsUnsigned
  | fitsSigned
  | getUnsigned
  | getSigned
  | putUnsigned
  | putSigned
deriving DecidableEq, Repr

/-- The three operand formats (R32): F reads value and width, G reads word, width and lsb, P reads all four. -/
inductive Format where
  | f
  | g
  | p
deriving DecidableEq, Repr

/-- A name the caller binds to a line's result (R40). -/
abbrev Name := List Char

/-- An argument of a textual line (R44): a decimal, a hexadecimal after `0x`, a negative decimal (`neg n` is
written `-n`), or a bound name. -/
inductive Arg where
  | dec (n : Nat)
  | hex (n : Nat)
  | neg (n : Nat)
  | name (x : Name)
deriving DecidableEq, Repr

/-- One line of the textual form (R40): `mnemonic(arg, ...)`, or `name = mnemonic(arg, ...)`. -/
structure Line where
  bind : Option Name
  op   : Operation
  args : List Arg
deriving DecidableEq, Repr

/-- What the caller does next with the block's input ports. -/
inductive Action where
  /-- Drives the six ports to these values and holds them until the response is read (70 R119). -/
  | drive (r : Request)
  /-- Performs a line of the textual form (R40). -/
  | line (l : Line)
  /-- Leaves a port undriven, or changes one before the response is read (70 R116, R119). -/
  | indefinite
deriving DecidableEq, Repr

end Sys2Proof
end

