-- ==== Sys2Proof/WellFormed.lean ====
section
/-! DEFINITION. Which textual lines and programs are well formed (30_encoding.md R32, R40, R44). An `Instr`
has no ill-formed value: "An operand bit pattern is never illegal as an encoding" (R38), and operands are
64-bit by their type; so the checks are those of the textual form. -/

namespace Sys2Proof

/-- The operand format of an operation (R32, R33). -/
def Operation.format : Operation → Format
  | .fitsUnsigned => .f
  | .fitsSigned   => .f
  | .getUnsigned  => .g
  | .getSigned    => .g
  | .putUnsigned  => .p
  | .putSigned    => .p

/-- How many arguments a format takes (R32). -/
def Format.arity : Format → Nat
  | .f => 2
  | .g => 3
  | .p => 4

/-- Whether the operation reads `value` as two's complement (R34). -/
def Operation.readsSigned : Operation → Bool
  | .fitsSigned => true
  | .putSigned  => true
  | .fitsUnsigned | .getUnsigned | .getSigned | .putUnsigned => false

/-- The place of the argument `value` in the textual form, where there is one (R40). -/
def Format.valueIndex : Format → Option Nat
  | .f => some 0
  | .g => none
  | .p => some 3

/-- A name starts with a letter or `_` and goes on with letters, digits and `_` (log entry 10). -/
def nameWf : Name → Bool
  | []      => false
  | c :: cs => (c.isAlpha || c == '_') && cs.all fun d => d.isAlphanum || d == '_'

/-- An argument's own form (R44): a non-negative literal is below 2^64, a negative one is an i64. -/
def Arg.wf : Arg → Bool
  | .dec n  => decide (n < 2 ^ 64)
  | .hex n  => decide (n < 2 ^ 64)
  | .neg n  => decide (n ≤ 2 ^ 63)
  | .name x => nameWf x

/-- Whether an argument is a negative decimal. -/
def Arg.isNeg : Arg → Bool
  | .neg _ => true
  | .dec _ | .hex _ | .name _ => false

/-- "A negative decimal is allowed only as the `value` of fits-signed and put-signed" (R44); `i` is the place of
the first argument of the list. -/
def negativesWf (op : Operation) (i : Nat) : List Arg → Bool
  | []      => true
  | a :: as =>
    (!a.isNeg || (op.readsSigned && op.format.valueIndex == some i)) && negativesWf op (i + 1) as

/-- A line is well formed (R40, R44): the operation's number of arguments, each of the right form, negatives only
where they may stand, and a proper name where it binds one. -/
def Line.wf (l : Line) : Bool :=
  l.args.length == l.op.format.arity && l.args.all Arg.wf && negativesWf l.op 0 l.args &&
    match l.bind with
    | none   => true
    | some x => nameWf x

/-- Every name among the arguments is one of `bound`. -/
def argsBound (bound : List Name) : List Arg → Bool
  | []            => true
  | .name x :: as => bound.contains x && argsBound bound as
  | .dec _ :: as  => argsBound bound as
  | .hex _ :: as  => argsBound bound as
  | .neg _ :: as  => argsBound bound as

/-- A program is well formed where `bound` are the names the caller starts with: every line is, and a line uses
only names that stand in `bound` or that an earlier line binds ("a later line may use the name", R40). -/
def programWf (bound : List Name) : List Line → Bool
  | []      => true
  | l :: ls =>
    l.wf && argsBound bound l.args &&
      programWf (match l.bind with | none => bound | some x => x :: bound) ls

end Sys2Proof
end

