-- ==== Sys2Proof/Decode.lean ====
section
/-! DEFINITION. The request bundle and its decoding, the encoder, the status codes and the response bundle
(30_encoding.md R30, R31, R33, R36, R41, R42). -/

namespace Sys2Proof

/-! ### The request bundle (R30) -/

/-- The six ports as the 260-bit bundle: valid 259, op 258:256, word 255:192, width 191:128, lsb 127:64,
value 63:0 (R30). -/
def Request.toBundle (r : Request) : BitVec 260 :=
  BitVec.ofBool r.valid ++ r.op ++ r.word ++ r.width ++ r.lsb ++ r.value

/-- The six ports of a bundle (R30). -/
def Request.ofBundle (b : BitVec 260) : Request where
  valid := b.getLsbD 259
  op    := b.extractLsb' 256 3
  word  := b.extractLsb' 192 64
  width := b.extractLsb' 128 64
  lsb   := b.extractLsb' 64 64
  value := b.extractLsb' 0 64

/-- No request: `valid` is 0, and every other port 0 as well (R39; the zeros are the canonical choice of R41). -/
def Request.noRequest : Request := ⟨false, 0#3, 0#64, 0#64, 0#64, 0#64⟩

/-! ### Decoding (R33, R37, R39, R42) -/

/-- Which row of the op code map a request selects, with the operands that row reads (R33, R42). Only `valid` and
`op` take part in the choice; every one of the sixteen header values is some row. -/
def decodeRequest (r : Request) : Instr :=
  if r.valid = false then .idle
  else if r.op = 6#3 then .reserved6
  else if r.op = 7#3 then .reserved7
  else if r.op = 0#3 then .fitsUnsigned r.value r.width
  else if r.op = 1#3 then .fitsSigned r.value r.width
  else if r.op = 2#3 then .getUnsigned r.word r.width r.lsb
  else if r.op = 3#3 then .getSigned r.word r.width r.lsb
  else if r.op = 4#3 then .putUnsigned r.word r.width r.lsb r.value
  else .putSigned r.word r.width r.lsb r.value

/-- Decoding a request bundle; total (R42). -/
def decode (b : BitVec 260) : Instr := decodeRequest (Request.ofBundle b)

/-- Why a string of bits is no request bundle or no response bundle. -/
inductive DecodeError where
  /-- Not 260 bits long: "There is one request length (260 bits)" (R30). -/
  | wrongLength (n : Nat)
  /-- The number does not fit the length. -/
  | tooWide
  /-- A response with a status code of 5, 6 or 7, which is never driven (R36). -/
  | reservedStatus (code : BitVec 3)
  /-- A response that is not OK and has bits set in `result` (R36). Log entry 15. -/
  | resultNotZero
deriving DecidableEq, Repr

/-- The first number that 260 bits do not hold, 2^260. -/
def bundleLimit : Nat := 0x100000000000000000000000000000000000000000000000000000000000000000

/-- Decoding `n` bits whose value is `w`; any length but 260 is rejected by name (R30). -/
def decodeBits (n w : Nat) : Except DecodeError Instr :=
  if n ≠ 260 then .error (.wrongLength n)
  else if bundleLimit ≤ w then .error .tooWide
  else .ok (decode (BitVec.ofNat 260 w))

/-- The number that hexadecimal digits stand for, the first digit most significant. -/
def digitsValue (ds : List (BitVec 4)) : Nat := ds.foldl (fun n d => 16 * n + d.toNat) 0

/-- Decoding a bundle printed as 65 hexadecimal digits, the header first (95_test_vectors.md, conventions). -/
def decodeDigits (ds : List (BitVec 4)) : Except DecodeError Instr :=
  decodeBits (4 * ds.length) (digitsValue ds)

/-! ### Encoding (R33, R41) -/

/-- The request of an instruction: `valid`, its op code, its operands, and 0 on every port it ignores (R33, R41). -/
def encodeRequest : Instr → Request
  | .fitsUnsigned value width         => ⟨true, 0#3, 0#64, width, 0#64, value⟩
  | .fitsSigned value width           => ⟨true, 1#3, 0#64, width, 0#64, value⟩
  | .getUnsigned word width lsb       => ⟨true, 2#3, word, width, lsb, 0#64⟩
  | .getSigned word width lsb         => ⟨true, 3#3, word, width, lsb, 0#64⟩
  | .putUnsigned word width lsb value => ⟨true, 4#3, word, width, lsb, value⟩
  | .putSigned word width lsb value   => ⟨true, 5#3, word, width, lsb, value⟩
  | .reserved6                        => ⟨true, 6#3, 0#64, 0#64, 0#64, 0#64⟩
  | .reserved7                        => ⟨true, 7#3, 0#64, 0#64, 0#64, 0#64⟩
  | .idle                             => .noRequest

/-- The canonical bundle of an instruction (R30, R41). -/
def encode (i : Instr) : BitVec 260 := (encodeRequest i).toBundle

/-- The op code of an operation (R33). -/
def Operation.code : Operation → BitVec 3
  | .fitsUnsigned => 0#3
  | .fitsSigned   => 1#3
  | .getUnsigned  => 2#3
  | .getSigned    => 3#3
  | .putUnsigned  => 4#3
  | .putSigned    => 5#3

/-- The header `{valid, op[2:0]}` of an instruction's row (R33, the column `hdr`). -/
def Instr.header : Instr → BitVec 4
  | .fitsUnsigned _ _    => 0b1000#4
  | .fitsSigned _ _      => 0b1001#4
  | .getUnsigned _ _ _   => 0b1010#4
  | .getSigned _ _ _     => 0b1011#4
  | .putUnsigned _ _ _ _ => 0b1100#4
  | .putSigned _ _ _ _   => 0b1101#4
  | .reserved6           => 0b1110#4
  | .reserved7           => 0b1111#4
  | .idle                => 0b0000#4

/-! ### Words as spec/opcode_table.json numbers them (log entry 5) -/

/-- The request a header alone makes: `valid` its bit 3, `op` its bits 2:0, and 0 on every operand port (R30). -/
def headerRequest (hdr : Nat) : Request :=
  ⟨decide (hdr / 8 % 2 = 1), BitVec.ofNat 3 (hdr % 8), 0#64, 0#64, 0#64, 0#64⟩

/-- The request of a word of the opcode table. A row's `match`, `mask` and `fixed` number the header alone, its bits 3:0,
so a word of fewer than 260 bits gives the header in its four low bits (no row's mask reaches further) and every
operand bit is 0. A word of 260 bits or more is the bundle itself, as `bundle_match` numbers it. -/
def tableRequest (nbits w : Nat) : Option Request :=
  if nbits < 260 then some (headerRequest (w % 16))
  else if w < bundleLimit then some (Request.ofBundle (BitVec.ofNat 260 w))
  else none

/-- What the decoder reads from a word of the opcode table. -/
def decodeTableWord (nbits w : Nat) : Option Instr := (tableRequest nbits w).map decodeRequest

/-! ### The response (R14, R31, R36) -/

/-- The status code on the port (R36). -/
def Status.code : Status → BitVec 3
  | .idle      => 0#3
  | .ok        => 1#3
  | .noFit     => 2#3
  | .fatalDesc => 3#3
  | .fatalOp   => 4#3

/-- The `status` of an outcome (R36). -/
def Response.status : Response → Status
  | .idle              => .idle
  | .ok _              => .ok
  | .noFit             => .noFit
  | .fatal .descriptor => .fatalDesc
  | .fatal .op         => .fatalOp

/-- What the `result` port shows: the value of an OK outcome, and 0 otherwise (R36). -/
def Response.result : Response → Word
  | .ok r    => r
  | .idle    => 0#64
  | .noFit   => 0#64
  | .fatal _ => 0#64

/-- The response as the 67-bit bundle: status 66:64, result 63:0 (R31). -/
def encodeResponse (o : Response) : BitVec 67 := o.status.code ++ o.result

/-- Reading a response bundle back; codes 5 to 7 are refused (93_implementation_defined.md U10). -/
def decodeResponse (b : BitVec 67) : Except DecodeError Response :=
  let code := b.extractLsb' 64 3
  let r := b.extractLsb' 0 64
  if code = 1#3 then .ok (.ok r)
  else if 5 ≤ code.toNat then .error (.reservedStatus code)
  else if r ≠ 0#64 then .error .resultNotZero
  else if code = 0#3 then .ok .idle
  else if code = 2#3 then .ok .noFit
  else if code = 3#3 then .ok (.fatal .descriptor)
  else .ok (.fatal .op)

end Sys2Proof
end

