-- ==== Sys2Proof/Machine/State.lean ====
section
/-! DEFINITION. The state of a run of the block. The block itself holds no state (10_state.md R10, R11, R12, R19);
what a run has is the block's ports (R13, R14) and the caller's side of it: the list of requests still to be made,
the responses so far, the names bound to results, and the mark that a fatal outcome has occurred
(30_encoding.md R40; 60_exceptions.md R98; 70_reset_and_hazards.md R124). -/

namespace Sys2Proof.Machine

/-- The run's state, plain data. -/
structure State where
  /-- The six input ports as they are driven now (R13); held until the next request (R119). -/
  inputs    : Request
  /-- The outcome that the output ports `status` and `result` show now (R14, R7, R36). -/
  output    : Response
  /-- The caller's list: what it will do with the ports, in order (R40, R124). -/
  pending   : List Action
  /-- The caller's bindings: the outcome of the last line that bound the name, newest first (R40). -/
  names     : List (Name × Response)
  /-- The responses of the run so far, oldest first (R124). -/
  responses : List Response
  /-- The run-level fault mark: the cause of the run's fatal outcome; never cleared by a step (R98). -/
  fault     : Option Cause
deriving DecidableEq, Repr

/-- Why a step stops with a fault. -/
inductive Fault where
  /-- The run is faulted, and the requests after the fatal outcome are not performed (R121, R124). Raised by `step`
  alone. Safe: the block would answer, the caller must not ask (R98), and nothing further can be proved of the run. -/
  | runFaulted (c : Cause)
deriving DecidableEq, Repr

/-- Why a step has no meaning. -/
inductive Refusal where
  /-- An instruction without a meaning yet. No arm of this model raises it. Safe. -/
  | notModelled (mnemonic : String)
  /-- An input port is undriven, or changes before the response is read (R116, R119; 93_implementation_defined.md U12:
  "no step is defined for an indefinite input"). Raised by `step` on the action `indefinite`. Safe. -/
  | indefiniteInput
  /-- A line that is not of the textual form (R40, R44). Raised by `step` on an ill-formed line. Safe. -/
  | illFormedLine
  /-- A line uses a name no line has bound (R44: an argument is a literal "or a bound name"). Raised by `step`. Safe. -/
  | unboundName (x : Name)
  /-- A line uses the result of a line whose outcome was not OK (R110, R120: "a model should refuse such a run").
  Raised by `step`. Safe. -/
  | nonOkResult (x : Name)
deriving DecidableEq, Repr

/-- Before any request: `valid` is 0, so `status` is IDLE and `result` 0 (R18, R116), the other input ports are 0 (log
entry 4), and the run is empty (R117: "Software (the caller) has nothing to initialise"). -/
def State.reset : State where
  inputs    := Request.noRequest
  output    := .idle
  pending   := []
  names     := []
  responses := []
  fault     := none

end Sys2Proof.Machine
end

