-- ==== Sys2Proof/Machine/Operands.lean ====
section
/-! DEFINITION. How operands are read (00_scope.md R5, R9; 30_encoding.md R34, R35), the validity checks of a
field descriptor and of a width (40_barrel_shifter.md R53, R54, R55, R58), and the descriptor that has passed them. -/

namespace Sys2Proof.Machine

/-- `val_u`, the unsigned reading of a Word (R5). -/
abbrev valU (b : Word) : Nat := b.toNat

/-- `val_s`, the two's-complement reading: val_u(b) - 2^64 * b[63] (R5; the formula is general knowledge, K1; log
entry 16). -/
def valS (b : Word) : Int := (b.toNat : Int) - 2 ^ 64 * (if b.getLsbD 63 then 1 else 0)

/-- `tc64`, the 64-bit vector of an integer (R5). -/
def tc64 (n : Int) : Word := BitVec.ofInt 64 n

/-- The descriptor check under either value of `LSB64_POLICY` (R53, R58). The sum is of natural numbers and does not
wrap (D11). -/
def descOkUnder (p : Config.Lsb64Policy) (width lsb : Word) : Bool :=
  decide (valU width ≤ 64) && decide (valU width + valU lsb ≤ 64) &&
    match p with
    | .accept => true
    | .refuse => !(decide (valU width = 0) && decide (valU lsb = 64))

/-- `desc_ok`, the descriptor check of get-* and put-* (R53), with the decided policy (R58). -/
def descOk (width lsb : Word) : Bool := descOkUnder Config.lsb64Policy width lsb

/-- `width_ok`, the check of fits-unsigned and fits-signed (R54). -/
def widthOk (width : Word) : Bool := decide (valU width ≤ 64)

/-- The hardware form of `desc_ok` (R55): both high parts zero, and the 8-bit sum of the low seven bits at most 64. -/
def descOkHardware (width lsb : Word) : Bool :=
  decide (width.extractLsb' 7 57 = 0#57) && decide (lsb.extractLsb' 7 57 = 0#57) &&
    decide (((width.extractLsb' 0 7).setWidth 8 + (lsb.extractLsb' 0 7).setWidth 8 : BitVec 8).toNat ≤ 64)

/-- The hardware form of `width_ok` (R55). -/
def widthOkHardware (width : Word) : Bool :=
  decide (width.extractLsb' 7 57 = 0#57) && decide ((width.extractLsb' 0 7).toNat ≤ 64)

/-- A field descriptor that has passed the check: it names the bits [lsb, lsb + width) of a Word (20_memory.md R24). -/
structure FieldRange where
  width : Nat
  lsb   : Nat
  fits  : width + lsb ≤ 64

/-- The check bounds the sum, under either policy (R53). -/
theorem descOkUnder_sum_le {p : Config.Lsb64Policy} {width lsb : Word} (h : descOkUnder p width lsb = true) :
    valU width + valU lsb ≤ 64 := by
  simp only [descOkUnder, Bool.and_eq_true, decide_eq_true_eq] at h
  exact h.1.2

/-- The descriptor of a request, if it passes the check (R53). -/
def descCheck (width lsb : Word) : Option FieldRange :=
  if h : descOk width lsb = true then some ⟨valU width, valU lsb, descOkUnder_sum_le h⟩ else none

/-- The width of a fit predicate as a shift amount, if it passes the check (R54). -/
def widthCheck (width : Word) : Option Amount :=
  if h : widthOk width = true then some ⟨valU width, Nat.lt_succ_of_le (of_decide_eq_true h)⟩ else none

/-! The shifter amounts a checked descriptor gives (R48, R55): each lies in [0, 64] by the check. -/

/-- `width`. -/
def FieldRange.widthAmount (f : FieldRange) : Amount := ⟨f.width, by have := f.fits; omega⟩

/-- `lsb`. -/
def FieldRange.lsbAmount (f : FieldRange) : Amount := ⟨f.lsb, by have := f.fits; omega⟩

/-- `lsb + width`, the bit index just above the field. -/
def FieldRange.endAmount (f : FieldRange) : Amount := ⟨f.lsb + f.width, by have := f.fits; omega⟩

end Sys2Proof.Machine
end

