-- ==== Sys2Proof/Machine/Shifter.lean ====
section
/-! DEFINITION. The part `barrel_shifter_with_sign_extend`: shifts, masks, truncation, sign extension, and the parts of
a Word outside a field (40_barrel_shifter.md R45 to R50, R56, R57). No amount is reduced modulo 64 (R48): an amount
of 64 shifts every bit out. -/

namespace Sys2Proof.Machine

/-- `64 - n`, which never goes negative (R48, R52). -/
def complement (n : Amount) : Amount := ⟨64 - n.val, by omega⟩

/-- `SHL(x, n)`: shift left, zero fill (R45). -/
def shl (x : Word) (n : Amount) : Word := x <<< n.val

/-- `LSR(x, n)`: logical shift right, zero fill (R46). -/
def lsr (x : Word) (n : Amount) : Word := x >>> n.val

/-- `ASR(x, n)`: arithmetic shift right, copies of bit 63 enter at the top (R47). -/
def asr (x : Word) (n : Amount) : Word := x.sshiftRight n.val

/-- `MASK(w)`: bits w - 1 down to 0 set, formed by a right shift so that 2^64 is never needed (R49). -/
def mask (w : Amount) : Word := lsr (BitVec.allOnes 64) (complement w)

/-- `TRUNC(v, w)`: the low w bits of v, zero above (R57). -/
def trunc (v : Word) (w : Amount) : Word := v &&& mask w

/-- `SEXT(x, w)`: sign extension from w bits, in its shift form (R50). It is not defined for w = 0, and cannot be
called there. -/
def sext (x : Word) (w : Amount) (_ : w ≠ 0) : Word := asr (shl x (complement w)) (complement w)

/-- `LEFT(word, e)`: bits 63 down to e in place, zero below (R56). -/
def left (word : Word) (e : Amount) : Word := shl (lsr word e) e

/-- `RIGHT(word, l)`: bits l - 1 down to 0 in place, zero above (R56). -/
def right (word : Word) (l : Amount) : Word := lsr (shl word (complement l)) (complement l)

end Sys2Proof.Machine
end

