-- ==== Sys2Proof/Machine/Flags.lean ====
section
/-! DEFINITION. The block has no flags and no condition codes (10_state.md R12); what stands in their place is computed
here: the predicate bit on the `result` port, and which outcomes are fatal (30_encoding.md R36; 60_exceptions.md R96). -/

namespace Sys2Proof.Machine

/-- `zext_1(p)`: a predicate on bit 0 of `result`, bits 63 to 1 zero (R36). -/
def boolResult (p : Bool) : Word := if p then 1#64 else 0#64

/-- The cause of a fatal outcome; IDLE, OK and NOFIT are not faults (R96, R100). -/
def fatalCause : Response → Option Cause
  | .fatal c => some c
  | .idle    => none
  | .ok _    => none
  | .noFit   => none

/-- The `status` port as it stands (R14). -/
def State.status (s : State) : BitVec 3 := s.output.status.code

/-- The `result` port as it stands (R14). -/
def State.result (s : State) : Word := s.output.result

end Sys2Proof.Machine
end

