-- ==== Sys2Proof/Machine/Ops.lean ====
section
/-! DEFINITION. The named operations over the run's state: driving the ports, answering a request (with the fatal
outcome, which is this block's trap entry, 60_exceptions.md R98), binding and reading a caller's name. There is no
memory and no register to read or write (10_state.md R10; 20_memory.md R20), and no return from a fatal outcome
(60_exceptions.md R103). -/

namespace Sys2Proof.Machine

/-- Drives the six input ports (R13). -/
def State.driveInputs (s : State) (r : Request) : State := { s with inputs := r }

/-- The run-level mark after an outcome: a fatal outcome marks the run with its cause, no other outcome changes the
mark, and a mark that stands is never changed (R98: "never cleared"). -/
def markFault (mark : Option Cause) (o : Response) : Option Cause :=
  match mark with
  | some c => some c
  | none   => fatalCause o

/-- The block answers: the output ports show the outcome, the run records it, and a fatal outcome marks the run
(R14, R36, R98, R124). This is the whole effect of any request, the fatal outcome's included: no state is saved, no mode
changes and control goes nowhere (R98). Log entries 1 and 2. -/
def State.respond (s : State) (o : Response) : State :=
  { s with output := o, responses := s.responses ++ [o], fault := markFault s.fault o }

/-- The caller has no request left: `valid` is driven to 0 and the outputs show IDLE (R39, R116). No request was made, so
no response is recorded. Log entry 3. -/
def State.rest (s : State) : State :=
  { s with inputs := Request.noRequest, output := .idle }

/-- Binds a name to an outcome, in place of an earlier binding of that name (R40). Log entry 9. -/
def bindName (env : List (Name × Response)) (x : Name) (o : Response) : List (Name × Response) :=
  (x, o) :: env.filter fun e => e.1 != x

/-- The outcome a name is bound to. -/
def lookupName (env : List (Name × Response)) (x : Name) : Option Response :=
  (env.find? fun e => e.1 == x).map Prod.snd

/-- Binds the name of a line, if it has one, to the outcome the output ports show. -/
def State.bindOutput (s : State) (b : Option Name) : State :=
  match b with
  | none   => s
  | some x => { s with names := bindName s.names x s.output }

end Sys2Proof.Machine
end

