-- ==== Sys2Proof/Machine/Extract.lean ====
section
/-! DEFINITION. The part `bit_field_extractor`: get-unsigned and get-signed, as the datapath computes them
(42_field_extraction.md R71, R73, R74, R76). It uses the shifter and the descriptor check, not the predicates
(10_state.md R17). The contracts it meets (R70, R72) are in Machine/Contract.lean. -/

namespace Sys2Proof.Machine

/-- The left shift both extractions share: the field's top bit lands in bit 63 (R71, R73). -/
def alignTop (word : Word) (f : FieldRange) : Word := shl word (complement f.endAmount)

/-- Datapath of get-unsigned: the logical right shift brings the field's low bit to bit 0 (R71); width 0 is a bypass
(R74). -/
def extractUnsigned (word : Word) (f : FieldRange) : Word :=
  if f.width = 0 then 0#64 else lsr (alignTop word f) (complement f.widthAmount)

/-- Datapath of get-signed: the same with the arithmetic right shift (R73); width 0 is a bypass, without which a bit below
the empty field would be copied over the whole result (R74). -/
def extractSigned (word : Word) (f : FieldRange) : Word :=
  if f.width = 0 then 0#64 else asr (alignTop word f) (complement f.widthAmount)

/-- get-unsigned(word, width, lsb) (R70, R71, R76). -/
def getUnsigned (word width lsb : Word) : Response :=
  match descCheck width lsb with
  | none   => .fatal .descriptor
  | some f => .ok (extractUnsigned word f)

/-- get-signed(word, width, lsb) (R72, R73, R76). -/
def getSigned (word width lsb : Word) : Response :=
  match descCheck width lsb with
  | none   => .fatal .descriptor
  | some f => .ok (extractSigned word f)

/-- The meaning of get-unsigned (R70). -/
def execGetUnsigned (word width lsb : Word) (s : State) : Host.Outcome State Fault Refusal :=
  .next (s.respond (getUnsigned word width lsb))

/-- The meaning of get-signed (R72). -/
def execGetSigned (word width lsb : Word) (s : State) : Host.Outcome State Fault Refusal :=
  .next (s.respond (getSigned word width lsb))

end Sys2Proof.Machine
end

