-- ==== Sys2Proof/Machine/Fits.lean ====
section
/-! DEFINITION. The part `width_fit_predicates`: fits-unsigned and fits-signed, as the datapath computes them
(41_fit_predicates.md R61, R63, R64, R66). The contracts they meet (R60, R62) are in Machine/Contract.lean. -/

namespace Sys2Proof.Machine

/-- Datapath of fits-unsigned (R61): no bit at or above position `w` is set; width 0 is decided before the shifter (R64). -/
def fitsUnsignedBit (value : Word) (w : Amount) : Bool :=
  if w = 0 then false else lsr value w == 0#64

/-- Datapath of fits-signed (R63): the value survives a sign extension from `w` bits; width 0 is decided before the
shifter (R64). -/
def fitsSignedBit (value : Word) (w : Amount) : Bool :=
  if h : w = 0 then false else sext value w h == value

/-- fits-unsigned(value, width): the width check, then the predicate (R60, R61, R66). -/
def fitsUnsigned (value width : Word) : Response :=
  match widthCheck width with
  | none   => .fatal .descriptor
  | some w => .ok (boolResult (fitsUnsignedBit value w))

/-- fits-signed(value, width): the width check, then the predicate (R62, R63, R66). -/
def fitsSigned (value width : Word) : Response :=
  match widthCheck width with
  | none   => .fatal .descriptor
  | some w => .ok (boolResult (fitsSignedBit value w))

/-- The meaning of fits-unsigned (R60). -/
def execFitsUnsigned (value width : Word) (s : State) : Host.Outcome State Fault Refusal :=
  .next (s.respond (fitsUnsigned value width))

/-- The meaning of fits-signed (R62). -/
def execFitsSigned (value width : Word) (s : State) : Host.Outcome State Fault Refusal :=
  .next (s.respond (fitsSigned value width))

end Sys2Proof.Machine
end

