-- ==== Sys2Proof/Machine/Insert.lean ====
section
/-! DEFINITION. The part `bit_field_inserter`: put-unsigned and put-signed, as the datapath computes them
(43_field_insertion.md R81, R83, R84, R88, R93). It uses the shifter, the descriptor check and the two predicates
(10_state.md R17). The contracts it meets (R80, R82) are in Machine/Contract.lean. -/

namespace Sys2Proof.Machine

/-- The bits of `word` above the field; 0 when the field reaches bit 63 (R81, R84). -/
def leftPart (word : Word) (f : FieldRange) : Word :=
  if f.lsb + f.width = 64 then 0#64 else left word f.endAmount

/-- The bits of `word` below the field; 0 when the field starts at bit 0 (R81, R84). -/
def rightPart (word : Word) (f : FieldRange) : Word :=
  if f.lsb = 0 then 0#64 else right word f.lsbAmount

/-- left | (pattern shifted to the field) | right (R81, R83). -/
def mergeField (word : Word) (f : FieldRange) (pattern : Word) : Word :=
  leftPart word f ||| shl pattern f.lsbAmount ||| rightPart word f

/-- put-unsigned(word, width, lsb, value): the descriptor check first (R88), then fits-unsigned (R93), then the merge;
a value that fits has no bit at or above `width`, so it is its own pattern (R81). -/
def putUnsigned (word width lsb value : Word) : Response :=
  match descCheck width lsb with
  | none   => .fatal .descriptor
  | some f =>
    if fitsUnsignedBit value f.widthAmount then .ok (mergeField word f value) else .noFit

/-- put-signed(word, width, lsb, value): as put-unsigned, with fits-signed, and the pattern truncated to the field's
width so that the ones above a negative value do not reach the left part (R83, R85). -/
def putSigned (word width lsb value : Word) : Response :=
  match descCheck width lsb with
  | none   => .fatal .descriptor
  | some f =>
    if fitsSignedBit value f.widthAmount then .ok (mergeField word f (trunc value f.widthAmount)) else .noFit

/-- The meaning of put-unsigned (R80). -/
def execPutUnsigned (word width lsb value : Word) (s : State) : Host.Outcome State Fault Refusal :=
  .next (s.respond (putUnsigned word width lsb value))

/-- The meaning of put-signed (R82). -/
def execPutSigned (word width lsb value : Word) (s : State) : Host.Outcome State Fault Refusal :=
  .next (s.respond (putSigned word width lsb value))

end Sys2Proof.Machine
end

