-- ==== Sys2Proof/Machine/Block.lean ====
section
/-! DEFINITION. The whole function F of the ports, as one total decode (10_state.md R15; 30_encoding.md R42). -/

namespace Sys2Proof.Machine

/-- `F(valid, op, word, width, lsb, value)` (R42). -/
def blockF (r : Request) : Response :=
  if r.valid = false then .idle
  else if r.op = 6#3 ∨ r.op = 7#3 then .fatal .op
  else if r.op = 0#3 then fitsUnsigned r.value r.width
  else if r.op = 1#3 then fitsSigned r.value r.width
  else if r.op = 2#3 then getUnsigned r.word r.width r.lsb
  else if r.op = 3#3 then getSigned r.word r.width r.lsb
  else if r.op = 4#3 then putUnsigned r.word r.width r.lsb r.value
  else putSigned r.word r.width r.lsb r.value

end Sys2Proof.Machine
end

