-- ==== Sys2Proof/Machine/Reserved.lean ====
section
/-! DEFINITION. The rows of the op code map that are no operation: the reserved codes 6 and 7 (30_encoding.md R37;
60_exceptions.md R99) and the absence of a request (R39). -/

namespace Sys2Proof.Machine

/-- The meaning of op code 6: the fatal outcome `Fatal(Op)`, no operand examined (R37, R99). -/
def execReserved6 (s : State) : Host.Outcome State Fault Refusal := .next (s.respond (.fatal .op))

/-- The meaning of op code 7: the fatal outcome `Fatal(Op)`, no operand examined (R37, R99). -/
def execReserved7 (s : State) : Host.Outcome State Fault Refusal := .next (s.respond (.fatal .op))

/-- The meaning of `valid` = 0: the outcome IDLE, no error (R39). Log entry 14. -/
def execIdle (s : State) : Host.Outcome State Fault Refusal := .next (s.respond .idle)

end Sys2Proof.Machine
end

