-- ==== Sys2Proof/Machine/Dispatch.lean ====
section
/-! DEFINITION. One arm per row of the op code map (30_encoding.md R42). -/

namespace Sys2Proof.Machine

/-- What the block answers to an instruction (R42). It answers in every state, since it has none of its own (R98): that a
faulted run makes no further request is the run's rule, in `step` (R121). -/
def exec (i : Instr) (s : State) : Host.Outcome State Fault Refusal :=
  match i with
  | .fitsUnsigned value width => Sys2Proof.Machine.execFitsUnsigned value width s
  | .fitsSigned value width => Sys2Proof.Machine.execFitsSigned value width s
  | .getUnsigned word width lsb => Sys2Proof.Machine.execGetUnsigned word width lsb s
  | .getSigned word width lsb => Sys2Proof.Machine.execGetSigned word width lsb s
  | .putUnsigned word width lsb value => Sys2Proof.Machine.execPutUnsigned word width lsb value s
  | .putSigned word width lsb value => Sys2Proof.Machine.execPutSigned word width lsb value s
  | .reserved6 => Sys2Proof.Machine.execReserved6 s
  | .reserved7 => Sys2Proof.Machine.execReserved7 s
  | .idle => Sys2Proof.Machine.execIdle s

end Sys2Proof.Machine
end

