-- ==== Sys2Proof/Machine/Text.lean ====
section
/-! DEFINITION. The textual form of requests and responses (30_encoding.md R40, R41, R44): reading a line from its
characters, writing a line, and writing a response. -/

namespace Sys2Proof.Machine

/-! ### Numbers -/

/-- The value of a decimal digit. -/
def decDigit (c : Char) : Option Nat :=
  if c.isDigit then some (c.toNat - '0'.toNat) else none

/-- The value of a hexadecimal digit, of either case. -/
def hexDigit (c : Char) : Option Nat :=
  if c.isDigit then some (c.toNat - '0'.toNat)
  else if 'a' ≤ c ∧ c ≤ 'f' then some (c.toNat - 'a'.toNat + 10)
  else if 'A' ≤ c ∧ c ≤ 'F' then some (c.toNat - 'A'.toNat + 10)
  else none

/-- The number that digits stand for in a base, after `acc`. -/
def readDigits (digit : Char → Option Nat) (base acc : Nat) : List Char → Option Nat
  | []      => some acc
  | c :: cs =>
    match digit c with
    | none   => none
    | some d => readDigits digit base (base * acc + d) cs

/-- A number of at least one digit. -/
def readNat (digit : Char → Option Nat) (base : Nat) : List Char → Option Nat
  | []      => none
  | c :: cs => readDigits digit base 0 (c :: cs)

/-- The decimal digits of a number, at most `fuel` of them. -/
def decimalOf : Nat → Nat → List Char → List Char
  | 0,        _, tail => tail
  | fuel + 1, n, tail =>
    let tail := Char.ofNat ('0'.toNat + n % 10) :: tail
    if n < 10 then tail else decimalOf fuel (n / 10) tail

/-- A number below 2^64 in decimal: at most twenty digits. -/
def decimal (n : Nat) : List Char := decimalOf 20 n []

/-- A hexadecimal digit, letters in capitals as the spec's vectors write it (log entry 18). -/
def hexChar (d : Nat) : Char := if d < 10 then Char.ofNat ('0'.toNat + d) else Char.ofNat ('A'.toNat + (d - 10))

/-- The hexadecimal digits of a number, at most `fuel` of them. -/
def hexadecimalOf : Nat → Nat → List Char → List Char
  | 0,        _, tail => tail
  | fuel + 1, n, tail =>
    let tail := hexChar (n % 16) :: tail
    if n < 16 then tail else hexadecimalOf fuel (n / 16) tail

/-- A number below 2^64 in hexadecimal, with its prefix `0x`. -/
def hexadecimal (n : Nat) : List Char := '0' :: 'x' :: hexadecimalOf 16 n []

/-! ### Reading a line -/

/-- The pieces of a line: words (mnemonics, names, numbers) and the five marks. -/
inductive Token where
  | word (cs : List Char)
  | lparen
  | rparen
  | comma
  | colon
  | equals
deriving DecidableEq, Repr

/-- Why a line of text is no line of the textual form. -/
inductive TextError where
  | badCharacter (c : Char)
  | badArgument (cs : List Char)
  | badCall
  | unknownMnemonic (cs : List Char)
  | illFormed (l : Line)
deriving DecidableEq, Repr

/-- The characters of a word. -/
def isWordChar (c : Char) : Bool := c.isAlphanum || c == '_' || c == '-'

/-- A mark of the line, if the character is one. -/
def markToken (c : Char) : Option Token :=
  if c = '(' then some .lparen
  else if c = ')' then some .rparen
  else if c = ',' then some .comma
  else if c = ':' then some .colon
  else if c = '=' then some .equals
  else none

/-- The word gathered so far (newest character first), put before the tokens that follow it. -/
def flushWord (acc : List Char) (ts : List Token) : List Token :=
  match acc with
  | []      => ts
  | c :: cs => .word (c :: cs).reverse :: ts

/-- The tokens of a line; spaces separate words and mean nothing else (log entry 10). -/
def tokenize (acc : List Char) : List Char → Except TextError (List Token)
  | []      => .ok (flushWord acc [])
  | c :: cs =>
    if isWordChar c then tokenize (c :: acc) cs
    else if c = ' ' then
      match tokenize [] cs with
      | .error e => .error e
      | .ok ts   => .ok (flushWord acc ts)
    else
      match markToken c, tokenize [] cs with
      | none, _          => .error (.badCharacter c)
      | _, .error e      => .error e
      | some t, .ok ts   => .ok (flushWord acc (t :: ts))

/-- An argument (R44): `-` and decimal digits, `0x` and hexadecimal digits, decimal digits, or a name. -/
def readArg (cs : List Char) : Except TextError Arg :=
  match cs with
  | '-' :: ds =>
    match readNat decDigit 10 ds with
    | some n => .ok (.neg n)
    | none   => .error (.badArgument cs)
  | '0' :: 'x' :: ds =>
    match readNat hexDigit 16 ds with
    | some n => .ok (.hex n)
    | none   => .error (.badArgument cs)
  | _ =>
    match readNat decDigit 10 cs with
    | some n => .ok (.dec n)
    | none   => if nameWf cs then .ok (.name cs) else .error (.badArgument cs)

/-- The arguments up to the closing parenthesis, which ends the line. -/
def readArgs : List Token → Except TextError (List Arg)
  | [.word w, .rparen]       => (readArg w).map fun a => [a]
  | .word w :: .comma :: ts  =>
    match readArg w, readArgs ts with
    | .error e, _        => .error e
    | _, .error e        => .error e
    | .ok a, .ok as      => .ok (a :: as)
  | _                        => .error .badCall

/-- The mnemonics: "the document's function names, unchanged" (R33). -/
def Operation.mnemonic : Operation → List Char
  | .fitsUnsigned => "fits-unsigned".toList
  | .fitsSigned   => "fits-signed".toList
  | .getUnsigned  => "get-unsigned".toList
  | .getSigned    => "get-signed".toList
  | .putUnsigned  => "put-unsigned".toList
  | .putSigned    => "put-signed".toList

/-- The operation of a mnemonic. There is no other one: "no pseudo-operations, no aliases" (R41). -/
def readOperation (cs : List Char) : Except TextError Operation :=
  if cs = Operation.mnemonic .fitsUnsigned then .ok .fitsUnsigned
  else if cs = Operation.mnemonic .fitsSigned then .ok .fitsSigned
  else if cs = Operation.mnemonic .getUnsigned then .ok .getUnsigned
  else if cs = Operation.mnemonic .getSigned then .ok .getSigned
  else if cs = Operation.mnemonic .putUnsigned then .ok .putUnsigned
  else if cs = Operation.mnemonic .putSigned then .ok .putSigned
  else .error (.unknownMnemonic cs)

/-- A call, bound to a name or not (R40), accepted only if well formed. -/
def readCall (bind : Option Name) (ts : List Token) : Except TextError Line :=
  match ts with
  | .word m :: .lparen :: args =>
    match readOperation m, readArgs args with
    | .error e, _      => .error e
    | _, .error e      => .error e
    | .ok op, .ok as   =>
      let l : Line := ⟨bind, op, as⟩
      if l.wf then .ok l else .error (.illFormed l)
  | _ => .error .badCall

/-- A line of the textual form: `name = call` as R40 writes it, `name := call` as 95_test_vectors.md section 4 does, or a
call alone. -/
def readLine (text : List Char) : Except TextError Line :=
  match tokenize [] text with
  | .error e => .error e
  | .ok (.word x :: .equals :: ts)           => readCall (some x) ts
  | .ok (.word x :: .colon :: .equals :: ts) => readCall (some x) ts
  | .ok ts                                   => readCall none ts

/-! ### Writing lines and responses -/

/-- An argument as R44 writes it. -/
def writeArg : Arg → List Char
  | .dec n  => decimal n
  | .hex n  => hexadecimal n
  | .neg n  => '-' :: decimal n
  | .name x => x

/-- Arguments, separated by `, `. -/
def writeArgs : List Arg → List Char
  | []           => []
  | [a]          => writeArg a
  | a :: b :: as => writeArg a ++ ',' :: ' ' :: writeArgs (b :: as)

/-- A line as R40 writes it; the spaces are log entry 18. -/
def writeLine (l : Line) : List Char :=
  (match l.bind with
    | none   => []
    | some x => x ++ [' ', '=', ' ']) ++
  Operation.mnemonic l.op ++ '(' :: writeArgs l.args ++ [')']

/-- An OK result as R44 prints it: `true` or `false` for a fit predicate and a signed decimal for get-signed; for the others,
where R44 allows an unsigned decimal or hexadecimal, the model's choice is decimal (DESIGN CHOICE, log entry 18). -/
def writeResult (op : Operation) (r : Word) : List Char :=
  match op with
  | .fitsUnsigned | .fitsSigned => if r = 0#64 then "false".toList else "true".toList
  | .getSigned => if valS r < 0 then '-' :: decimal (-valS r).toNat else decimal (valU r)
  | .getUnsigned | .putUnsigned | .putSigned => decimal (valU r)

/-- A response as it stands after the arrow (R40): its result, `NOFIT`, `FATAL_DESC` or `FATAL_OP`; `IDLE` is the name of the
remaining status (R36), which no line has (DESIGN CHOICE, log entry 18). -/
def writeResponse (op : Operation) : Response → List Char
  | .ok r              => writeResult op r
  | .noFit             => "NOFIT".toList
  | .fatal .descriptor => "FATAL_DESC".toList
  | .fatal .op         => "FATAL_OP".toList
  | .idle              => "IDLE".toList

end Sys2Proof.Machine
end

