-- ==== Sys2Proof/Machine/Run.lean ====
section
/-! DEFINITION. The caller's side of a run: resolving a line's arguments, presenting a request, binding its result
(30_encoding.md R34, R40, R41, R44; 60_exceptions.md R110; 70_reset_and_hazards.md R119, R120). -/

namespace Sys2Proof.Machine

/-- The 64-bit value of an argument (R34, R44). A name stands for the result of the line that bound it, which must have
been OK (R110, R120). -/
def argWord (env : List (Name × Response)) (a : Arg) : Except Refusal Word :=
  match a with
  | .dec n  => .ok (BitVec.ofNat 64 n)
  | .hex n  => .ok (BitVec.ofNat 64 n)
  | .neg n  => .ok (tc64 (-(n : Int)))
  | .name x =>
    match lookupName env x with
    | none         => .error (.unboundName x)
    | some (.ok r) => .ok r
    | some _       => .error (.nonOkResult x)

/-- The values of a line's arguments, the first refusal from the left winning. -/
def argWords (env : List (Name × Response)) : List Arg → Except Refusal (List Word)
  | []      => .ok []
  | a :: as =>
    match argWord env a with
    | .error e => .error e
    | .ok w    =>
      match argWords env as with
      | .error e => .error e
      | .ok ws   => .ok (w :: ws)

/-- The request of an operation on the arguments of its textual form, in the order of the form (R32, R40); `valid` is 1
and a port the operation does not name carries 0 (R41). -/
def callRequest (op : Operation) (ws : List Word) : Option Request :=
  match op.format, ws with
  | .f, [value, width]            => some ⟨true, op.code, 0#64, width, 0#64, value⟩
  | .g, [word, width, lsb]        => some ⟨true, op.code, word, width, lsb, 0#64⟩
  | .p, [word, width, lsb, value] => some ⟨true, op.code, word, width, lsb, value⟩
  | .f, _ | .g, _ | .p, _         => none

/-- The request a line makes (R40, R41, R44). -/
def lineRequest (env : List (Name × Response)) (l : Line) : Except Refusal Request :=
  if l.wf then
    match argWords env l.args with
    | .error e => .error e
    | .ok ws   =>
      match callRequest l.op ws with
      | none   => .error .illFormedLine
      | some r => .ok r
  else .error .illFormedLine

/-- One transaction: the request stands on the input ports and the block answers it (R15, R119). -/
def present (r : Request) (s : State) : Host.Outcome State Fault Refusal :=
  exec (decodeRequest r) (s.driveInputs r)

/-- What the run does with the caller's next action. -/
def perform (a : Action) (s : State) : Host.Outcome State Fault Refusal :=
  match a with
  | .drive r    => present r s
  | .indefinite => .refused .indefiniteInput
  | .line l     =>
    match lineRequest s.names l with
    | .error e => .refused e
    | .ok r    =>
      match present r s with
      | .next t    => .next (t.bindOutput l.bind)
      | .fault e   => .fault e
      | .refused e => .refused e

/-- The action that a word of the opcode table makes the caller take: driving the ports of its request, or nothing
definite where the word is no request (log entries 5 and 6). -/
def tableAction (nbits w : Nat) : Action :=
  match tableRequest nbits w with
  | some r => .drive r
  | none   => .indefinite

/-- The lines of a program's text (R40), the first error winning. -/
def readProgram : List (List Char) → Except TextError (List Line)
  | []      => .ok []
  | t :: ts =>
    match readLine t, readProgram ts with
    | .error e, _      => .error e
    | _, .error e      => .error e
    | .ok l, .ok ls    => .ok (l :: ls)

/-- A program given to the caller: "a list of such lines run by the caller in order" (R40). Log entry 6. -/
def State.withProgram (s : State) (ls : List Line) : State := { s with pending := ls.map .line }

end Sys2Proof.Machine
end

