-- ==== Sys2Proof/Machine/Step.lean ====
section
/-! DEFINITION. One step of a run (70_reset_and_hazards.md R121, R124), and where the next request is taken from. -/

namespace Sys2Proof.Machine

/-- One step: a faulted run performs nothing more (R121, R124); otherwise the caller's next action is performed, and where
none is left the ports rest (R116). -/
def step (s : State) : Host.Outcome State Fault Refusal :=
  match s.fault with
  | some c => .fault (.runFaulted c)
  | none   =>
    match s.pending with
    | []        => .next s.rest
    | a :: rest => perform a { s with pending := rest }

/-- `s` with a word of the opcode table as the caller's very next request. The block has no program counter and fetches
nothing (R11, R27): the caller's list is what a program is. A faulted run makes no request (R121), so the mark is taken
away; nothing else changes, so the record, the names and the requests still unperformed stay, after a faulted run too, and
what follows is no run of R124 counted from its start (DESIGN CHOICE, log entry 6). -/
def State.withFetchWord (s : State) (nbits w : Nat) : State :=
  { s with pending := tableAction nbits w :: s.pending, fault := none }

end Sys2Proof.Machine
end

