-- ==== Sys2Proof/Machine/Contract.lean ====
section
/-! DEFINITION. The contracts of the six operations, from the rules' pseudocode over numbers and bits, without the shifter
(41_fit_predicates.md R60, R62; 42_field_extraction.md R70, R72; 43_field_insertion.md R80, R82), and the function F
made of them. "The contract is normative for the result" (00_scope.md R8); the meanings follow the datapath, and the
two are to be proved equal. -/

namespace Sys2Proof.Machine

/-- R60: (val_u(width) != 0) and (val_u(value) <= 2^val_u(width) - 1), over the naturals. -/
def fitsUnsignedSpec (value : Word) (w : Nat) : Bool :=
  decide (w ≠ 0) && decide (valU value ≤ 2 ^ w - 1)

/-- R62: (w != 0) and (-2^(w-1) <= val_s(value)) and (val_s(value) <= 2^(w-1) - 1), over the integers. -/
def fitsSignedSpec (value : Word) (w : Nat) : Bool :=
  decide (w ≠ 0) && decide (-(2 : Int) ^ (w - 1) ≤ valS value) && decide (valS value ≤ (2 : Int) ^ (w - 1) - 1)

/-- The contract of fits-unsigned (R60). -/
def fitsUnsignedContract (value width : Word) : Response :=
  if widthOk width then .ok (boolResult (fitsUnsignedSpec value (valU width))) else .fatal .descriptor

/-- The contract of fits-signed (R62). -/
def fitsSignedContract (value width : Word) : Response :=
  if widthOk width then .ok (boolResult (fitsSignedSpec value (valU width))) else .fatal .descriptor

/-- The contract of get-unsigned: `zext_w(word[l + w - 1 : l])`, and 0 at width 0 (R70). -/
def getUnsignedContract (word width lsb : Word) : Response :=
  if descOk width lsb then
    if valU width = 0 then .ok 0#64
    else .ok ((word.extractLsb' (valU lsb) (valU width)).setWidth 64)
  else .fatal .descriptor

/-- The contract of get-signed: `sext_w(word[l + w - 1 : l])`, and 0 at width 0 (R72). -/
def getSignedContract (word width lsb : Word) : Response :=
  if descOk width lsb then
    if valU width = 0 then .ok 0#64
    else .ok ((word.extractLsb' (valU lsb) (valU width)).signExtend 64)
  else .fatal .descriptor

/-- The Word an insertion returns, bit by bit: `value[i - l]` inside the field and `word[i]` outside it (R80, R82). -/
def insertedWord (word : Word) (w l : Nat) (value : Word) : Word :=
  BitVec.ofFnLE fun i : Fin 64 =>
    if l ≤ i.val ∧ i.val < l + w then value.getLsbD (i.val - l) else word.getLsbD i.val

/-- The contract of put-unsigned (R80). -/
def putUnsignedContract (word width lsb value : Word) : Response :=
  if descOk width lsb then
    if valU width = 0 ∨ valU value > 2 ^ valU width - 1 then .noFit
    else .ok (insertedWord word (valU width) (valU lsb) value)
  else .fatal .descriptor

/-- The contract of put-signed (R82). -/
def putSignedContract (word width lsb value : Word) : Response :=
  if descOk width lsb then
    if valU width = 0 ∨ valS value < -(2 : Int) ^ (valU width - 1) ∨ valS value > (2 : Int) ^ (valU width - 1) - 1
    then .noFit
    else .ok (insertedWord word (valU width) (valU lsb) value)
  else .fatal .descriptor

/-- The function F made of the contracts (R42, R8). -/
def contractF (r : Request) : Response :=
  if r.valid = false then .idle
  else if r.op = 6#3 ∨ r.op = 7#3 then .fatal .op
  else if r.op = 0#3 then fitsUnsignedContract r.value r.width
  else if r.op = 1#3 then fitsSignedContract r.value r.width
  else if r.op = 2#3 then getUnsignedContract r.word r.width r.lsb
  else if r.op = 3#3 then getSignedContract r.word r.width r.lsb
  else if r.op = 4#3 then putUnsignedContract r.word r.width r.lsb r.value
  else putSignedContract r.word r.width r.lsb r.value

end Sys2Proof.Machine
end

