-- ==== Sys2Proof/Safety.lean ====
section
/-! DEFINITION. What counts as a safe run, in the terms of 70_reset_and_hazards.md R124 and 60_exceptions.md R98, R103. -/

namespace Sys2Proof.Machine

/-- "no fatal outcome recorded", the premise of every claim about a run (R98). -/
def State.Safe (s : State) : Prop := s.fault = none

/-- The run is over and final: the list is exhausted and every response was IDLE, OK or NOFIT (R124). -/
def State.Final (s : State) : Prop := s.pending = [] ∧ s.fault = none ∧ ∀ o ∈ s.responses, fatalCause o = none

/-- The run is over and faulted, never final (R124). -/
def State.Faulted (s : State) : Prop := ∃ c, s.fault = some c

/-- The outputs are the function F of the inputs of the same instant (10_state.md R15). -/
def State.Combinational (s : State) : Prop := s.output = blockF s.inputs

/-- The fault mark tells the truth, and "a caller's run contains at most one fatal outcome, and it is the run's last
transaction" (R103): either no response so far is fatal and the mark is absent, or the last one alone is and the mark is
its cause. -/
def State.FaultHonest (s : State) : Prop :=
  (s.fault = none ∧ ∀ o ∈ s.responses, fatalCause o = none) ∨
  ∃ before c, s.responses = before ++ [.fatal c] ∧ (∀ o ∈ before, fatalCause o = none) ∧ s.fault = some c

/-! ### What a line's argument stands for -/

/-- The Word an argument stands for (30_encoding.md R44, R40): a literal for its 64-bit vector, a negative one in two's
complement, a name for the result it is bound to, which must be OK (70_reset_and_hazards.md R120). -/
inductive Denotes (env : List (Name × Response)) : Arg → Word → Prop where
  | dec (n : Nat) : Denotes env (.dec n) (BitVec.ofNat 64 n)
  | hex (n : Nat) : Denotes env (.hex n) (BitVec.ofNat 64 n)
  | neg (n : Nat) : Denotes env (.neg n) (tc64 (-(n : Int)))
  | name (x : Name) (w : Word) (bound : lookupName env x = some (.ok w)) : Denotes env (.name x) w

/-! ### The two ways an instruction is answered, as whole next states -/

/-- `i` is answered with `o`, which is not fatal: the output ports show `o`, the run records it, and everything else is
as it was, the fault mark among it. -/
def Answers (i : Instr) (s : State) (o : Response) : Prop :=
  exec i s = .next { s with output := o, responses := s.responses ++ [o] }

/-- `i` ends with the fatal outcome of cause `c` (R97, R98; log entry 1): the output ports show it, the run records it and
is marked (with the cause of its first fatal outcome), and everything else is as it was. -/
def EndsFatal (i : Instr) (s : State) (c : Cause) : Prop :=
  exec i s = .next { s with output := .fatal c, responses := s.responses ++ [.fatal c], fault := some (s.fault.getD c) }

end Sys2Proof.Machine
end

