-- ==== Sys2Proof/Certificates/Slice0/Obligations.lean ====
section
/-! DEFINITION. The statements for the provers, from the numbered rules of spec/. How a fatal outcome stands in a next state
is log entry 1; a statement whose docstring says "derived" rests on an inference the spec marks as its own. -/

open Sys2Proof Sys2Proof.Machine

/-! ### Encoding -/

/-- Every instruction's canonical bundle decodes to it, every operand at every value (R30, R33, R41). -/
def Obligations.DecodeOfEncodeIsIdentity : Prop :=
  ∀ i : Instr, decode (encode i) = i

/-- The 260-bit bundle holds the six ports at the places R30 gives them, and nothing is lost in either direction. -/
def Obligations.BundleLaysOutSixPorts : Prop :=
  ∀ r : Request,
    (r.toBundle.getLsbD 259 = r.valid ∧ r.toBundle.extractLsb' 256 3 = r.op ∧
      r.toBundle.extractLsb' 192 64 = r.word ∧ r.toBundle.extractLsb' 128 64 = r.width ∧
      r.toBundle.extractLsb' 64 64 = r.lsb ∧ r.toBundle.extractLsb' 0 64 = r.value) ∧
    Request.ofBundle r.toBundle = r ∧ ∀ b : BitVec 260, (Request.ofBundle b).toBundle = b

/-- The op code map (R33), with the reserved codes and the absence of a request: which row each header selects, and with
which operands; the ports a row ignores take no part. -/
def Obligations.HeaderSelectsRowAndOperands : Prop :=
  ∀ word width lsb value : Word,
    decodeRequest ⟨true, 0#3, word, width, lsb, value⟩ = .fitsUnsigned value width ∧
    decodeRequest ⟨true, 1#3, word, width, lsb, value⟩ = .fitsSigned value width ∧
    decodeRequest ⟨true, 2#3, word, width, lsb, value⟩ = .getUnsigned word width lsb ∧
    decodeRequest ⟨true, 3#3, word, width, lsb, value⟩ = .getSigned word width lsb ∧
    decodeRequest ⟨true, 4#3, word, width, lsb, value⟩ = .putUnsigned word width lsb value ∧
    decodeRequest ⟨true, 5#3, word, width, lsb, value⟩ = .putSigned word width lsb value ∧
    decodeRequest ⟨true, 6#3, word, width, lsb, value⟩ = .reserved6 ∧
    decodeRequest ⟨true, 7#3, word, width, lsb, value⟩ = .reserved7 ∧
    ∀ op : BitVec 3, decodeRequest ⟨false, op, word, width, lsb, value⟩ = .idle

/-- Words written out from the opcode table decode to the instructions they stand for: the header-only words of the nine
rows, as the table numbers them (log entry 5), and the bundle R41 works out for get-unsigned(23, 3, 2). -/
def Obligations.TableWordsDecodeAsWritten : Prop :=
  decodeTableWord 8 0x8 = some (.fitsUnsigned 0 0) ∧ decodeTableWord 8 0x9 = some (.fitsSigned 0 0) ∧
  decodeTableWord 8 0xA = some (.getUnsigned 0 0 0) ∧ decodeTableWord 8 0xB = some (.getSigned 0 0 0) ∧
  decodeTableWord 8 0xC = some (.putUnsigned 0 0 0 0) ∧ decodeTableWord 8 0xD = some (.putSigned 0 0 0 0) ∧
  decodeTableWord 8 0xE = some .reserved6 ∧ decodeTableWord 8 0xF = some .reserved7 ∧
  decodeTableWord 8 0x0 = some .idle ∧
  decodeTableWord 260 0xA0000000000000017000000000000000300000000000000020000000000000000 =
    some (.getUnsigned 23 3 2)

/-- Ports an operation does not name have no effect (R16), the insertions read all four operands (R16), and no operand port
has an effect under `valid` = 0 (R39) or a reserved op code (R37). -/
def Obligations.UnnamedPortsHaveNoEffect : Prop :=
  ∀ (s : State) (op : BitVec 3) (word width lsb value word' width' lsb' value' : Word),
    exec (decodeRequest ⟨true, 0#3, word, width, lsb, value⟩) s =
      exec (decodeRequest ⟨true, 0#3, word', width, lsb', value⟩) s ∧
    exec (decodeRequest ⟨true, 1#3, word, width, lsb, value⟩) s =
      exec (decodeRequest ⟨true, 1#3, word', width, lsb', value⟩) s ∧
    exec (decodeRequest ⟨true, 2#3, word, width, lsb, value⟩) s =
      exec (decodeRequest ⟨true, 2#3, word, width, lsb, value'⟩) s ∧
    exec (decodeRequest ⟨true, 3#3, word, width, lsb, value⟩) s =
      exec (decodeRequest ⟨true, 3#3, word, width, lsb, value'⟩) s ∧
    decodeRequest ⟨true, 4#3, word, width, lsb, value⟩ = .putUnsigned word width lsb value ∧
    decodeRequest ⟨true, 5#3, word, width, lsb, value⟩ = .putSigned word width lsb value ∧
    exec (decodeRequest ⟨true, 6#3, word, width, lsb, value⟩) s =
      exec (decodeRequest ⟨true, 6#3, word', width', lsb', value'⟩) s ∧
    exec (decodeRequest ⟨true, 7#3, word, width, lsb, value⟩) s =
      exec (decodeRequest ⟨true, 7#3, word', width', lsb', value'⟩) s ∧
    exec (decodeRequest ⟨false, op, word, width, lsb, value⟩) s =
      exec (decodeRequest ⟨false, 0#3, word', width', lsb', value'⟩) s

/-- The response bundle and the status codes (R31, R36): status in bits 66:64 and result in bits 63:0; OK carries the
value; every other outcome shows 0; the five codes, and no other is driven. -/
def Obligations.ResponseShowsStatusAndResult : Prop :=
  (∀ o : Response, (encodeResponse o).extractLsb' 64 3 = o.status.code ∧
    (encodeResponse o).extractLsb' 0 64 = o.result ∧ o.status.code.toNat < 5) ∧
  (∀ r : Word, (Response.ok r).status.code = 1#3 ∧ (Response.ok r).result = r) ∧
  (Response.idle.status.code = 0#3 ∧ Response.idle.result = 0#64) ∧
  (Response.noFit.status.code = 2#3 ∧ Response.noFit.result = 0#64) ∧
  ((Response.fatal .descriptor).status.code = 3#3 ∧ (Response.fatal .descriptor).result = 0#64) ∧
  ((Response.fatal .op).status.code = 4#3 ∧ (Response.fatal .op).result = 0#64) ∧
  boolResult true = 1#64 ∧ boolResult false = 0#64

/-- Reading a response bundle back gives the outcome; the codes 5 to 7, which are never driven, are refused (R36), and so is
a bundle that is not OK and has bits set in `result` (the model's choice, log entry 15): exactly the bundles of the
outcomes are read. -/
def Obligations.ResponseBundleReadsBack : Prop :=
  (∀ o : Response, decodeResponse (encodeResponse o) = .ok o) ∧
  (∀ (b : BitVec 67) (o : Response), decodeResponse b = .ok o → encodeResponse o = b) ∧
  ∀ b : BitVec 67, 5 ≤ (b.extractLsb' 64 3).toNat →
    decodeResponse b = .error (.reservedStatus (b.extractLsb' 64 3))

/-! ### The barrel shifter -/

/-- R45: SHL as a number and bit by bit, and its corners. -/
def Obligations.ShlFillsWithZeros : Prop :=
  ∀ (x : Word) (n : Amount),
    valU (shl x n) = valU x * 2 ^ n.val % 2 ^ 64 ∧
    (∀ i < 64, (shl x n).getLsbD i = if n.val ≤ i then x.getLsbD (i - n.val) else false) ∧
    shl x 0 = x ∧ shl x 64 = 0#64

/-- R46: LSR as a number and bit by bit, and its corners. -/
def Obligations.LsrFillsWithZeros : Prop :=
  ∀ (x : Word) (n : Amount),
    valU (lsr x n) = valU x / 2 ^ n.val ∧
    (∀ i < 64, (lsr x n).getLsbD i = if i + n.val ≤ 63 then x.getLsbD (i + n.val) else false) ∧
    lsr x 0 = x ∧ lsr x 64 = 0#64

/-- R47: ASR bit by bit and as floor division of the signed reading (the numeric form is general knowledge, K2), and its
corners. -/
def Obligations.AsrFillsWithSign : Prop :=
  ∀ (x : Word) (n : Amount),
    asr x n = tc64 (Int.fdiv (valS x) (2 ^ n.val)) ∧
    (∀ i < 64, (asr x n).getLsbD i = if i + n.val ≤ 63 then x.getLsbD (i + n.val) else x.getLsbD 63) ∧
    asr x 0 = x ∧ asr x 64 = (if x.getLsbD 63 then BitVec.allOnes 64 else 0#64) ∧
    asr (tc64 (-1)) n = tc64 (-1)

/-- R49: MASK(w) has exactly the bits below w, its value is 2^w - 1, and it is the right shift of all ones. -/
def Obligations.MaskSetsBitsBelowWidth : Prop :=
  ∀ w : Amount,
    (∀ i < 64, (mask w).getLsbD i = decide (i < w.val)) ∧ valU (mask w) = 2 ^ w.val - 1 ∧
    mask w = lsr (BitVec.allOnes 64) (complement w) ∧ (complement w).val = 64 - w.val

/-- R57: TRUNC(v, w) is v & MASK(w), both readings are taken modulo 2^w, and the shift form is equal. -/
def Obligations.TruncKeepsLowBits : Prop :=
  ∀ (v : Word) (w : Amount),
    trunc v w = v &&& mask w ∧ valU (trunc v w) = valU v % 2 ^ w.val ∧
    (valU (trunc v w) : Int) = valS v % 2 ^ w.val ∧ trunc v 0 = 0#64 ∧ trunc v 64 = v ∧
    trunc v w = lsr (shl v (complement w)) (complement w)

/-- R50: SEXT(x, w) bit by bit, as a number, in its shift form, and at widths 64 and 1. -/
def Obligations.SextReplicatesSignBit : Prop :=
  ∀ (x : Word) (w : Amount) (h : w ≠ 0),
    (∀ i < 64, (sext x w h).getLsbD i = if i < w.val then x.getLsbD i else x.getLsbD (w.val - 1)) ∧
    valS (sext x w h) =
      (if valU x % 2 ^ w.val < 2 ^ (w.val - 1) then ((valU x % 2 ^ w.val : Nat) : Int)
        else ((valU x % 2 ^ w.val : Nat) : Int) - 2 ^ w.val) ∧
    sext x w h = asr (shl x (complement w)) (complement w) ∧
    (w = 64 → sext x w h = x) ∧
    (w = 1 → sext x w h = if x.getLsbD 0 then BitVec.allOnes 64 else 0#64)

/-- Derived (R51): a left shift that brings the field's top bit to bit 63 and a right shift by 64 - width extract the
field, zero- or sign-extended; at width 0 the arithmetic path would give all ones where the bit below the empty field
is set. -/
def Obligations.TwoShiftsExtractField : Prop :=
  (∀ (word : Word) (f : FieldRange), 1 ≤ f.width →
    lsr (alignTop word f) (complement f.widthAmount) = (word.extractLsb' f.lsb f.width).setWidth 64 ∧
    asr (alignTop word f) (complement f.widthAmount) = (word.extractLsb' f.lsb f.width).signExtend 64) ∧
  ∀ (word : Word) (f : FieldRange), f.width = 0 → 1 ≤ f.lsb → word.getLsbD (f.lsb - 1) = true →
    asr (alignTop word f) (complement f.widthAmount) = BitVec.allOnes 64

/-- R56: LEFT and RIGHT keep the bits on one side of a place, by shifts and by masks, and their ends. -/
def Obligations.LeftAndRightPartAWord : Prop :=
  ∀ (word : Word) (e : Amount),
    (∀ i < 64, (left word e).getLsbD i = (decide (e.val ≤ i) && word.getLsbD i)) ∧
    (∀ i < 64, (right word e).getLsbD i = (decide (i < e.val) && word.getLsbD i)) ∧
    left word e = word &&& ~~~(mask e) ∧ right word e = word &&& mask e ∧
    left word 64 = 0#64 ∧ left word 0 = word ∧ right word 0 = 0#64 ∧ right word 64 = word

/-! ### The validity checks -/

/-- R53, R54: the two checks, the sum unbounded; what desc_ok implies of lsb. -/
def Obligations.ValidityChecksCompareNaturals : Prop :=
  ∀ width lsb : Word,
    (descOk width lsb = true ↔ valU width ≤ 64 ∧ valU width + valU lsb ≤ 64) ∧
    (widthOk width = true ↔ valU width ≤ 64) ∧
    (descOk width lsb = true → valU lsb ≤ 64 ∧ (1 ≤ valU width → valU lsb ≤ 63))

/-- Derived (R55): the seven-bit hardware form of the checks decides the same descriptors and widths. -/
def Obligations.HardwareChecksAgree : Prop :=
  ∀ width lsb : Word, descOkHardware width lsb = descOk width lsb ∧ widthOkHardware width = widthOk width

/-- R58: the decided policy accepts (0, 64), where extraction gives 0 and insertion NOFIT; with width 0 every lsb from 0 to
64 passes and no other; the other policy differs on (0, 64) alone. -/
def Obligations.PolicyTurnsOnZeroWidthAt64 : Prop :=
  descOk 0#64 64#64 = true ∧
  (∀ word value : Word, getUnsigned word 0#64 64#64 = .ok 0#64 ∧ getSigned word 0#64 64#64 = .ok 0#64 ∧
    putUnsigned word 0#64 64#64 value = .noFit ∧ putSigned word 0#64 64#64 value = .noFit) ∧
  (∀ lsb : Word, descOk 0#64 lsb = true ↔ valU lsb ≤ 64) ∧
  ∀ width lsb : Word, descOkUnder .refuse width lsb =
    (descOkUnder .accept width lsb && !(decide (width = 0#64) && decide (lsb = 64#64)))

/-! ### The six operations -/

/-- R60: fits-unsigned, whole: its encoding, its answer, its failure. Derived: the mark that a failure leaves, with the
run's first fatal cause, is log entries 1 and 2. -/
def Obligations.FitsUnsignedMeetsContract : Prop :=
  ∀ (s : State) (r : Request) (w : Nat), r.valid = true → r.op = 0#3 → valU r.width = w →
    decodeRequest r = .fitsUnsigned r.value r.width ∧
    (w ≤ 64 → Answers (.fitsUnsigned r.value r.width) s
      (.ok (if w ≠ 0 ∧ valU r.value ≤ 2 ^ w - 1 then 1#64 else 0#64))) ∧
    (64 < w → EndsFatal (.fitsUnsigned r.value r.width) s .descriptor)

/-- R62: fits-signed, whole: its encoding, its answer, its failure. Derived: the mark that a failure leaves, with the run's
first fatal cause, is log entries 1 and 2. -/
def Obligations.FitsSignedMeetsContract : Prop :=
  ∀ (s : State) (r : Request) (w : Nat), r.valid = true → r.op = 1#3 → valU r.width = w →
    decodeRequest r = .fitsSigned r.value r.width ∧
    (w ≤ 64 → Answers (.fitsSigned r.value r.width) s
      (.ok (if w ≠ 0 ∧ -(2 : Int) ^ (w - 1) ≤ valS r.value ∧ valS r.value ≤ (2 : Int) ^ (w - 1) - 1
        then 1#64 else 0#64))) ∧
    (64 < w → EndsFatal (.fitsSigned r.value r.width) s .descriptor)

/-- R70: get-unsigned, whole: its encoding, its result bit by bit and as a number, its failure. Derived: the mark that a
failure leaves, with the run's first fatal cause, is log entries 1 and 2. -/
def Obligations.GetUnsignedMeetsContract : Prop :=
  ∀ (s : State) (r : Request) (w l : Nat), r.valid = true → r.op = 2#3 → valU r.width = w → valU r.lsb = l →
    decodeRequest r = .getUnsigned r.word r.width r.lsb ∧
    (w ≤ 64 ∧ w + l ≤ 64 → ∃ x : Word, Answers (.getUnsigned r.word r.width r.lsb) s (.ok x) ∧
      (∀ k < 64, x.getLsbD k = if k < w then r.word.getLsbD (l + k) else false) ∧
      valU x = valU r.word / 2 ^ l % 2 ^ w) ∧
    (¬(w ≤ 64 ∧ w + l ≤ 64) → EndsFatal (.getUnsigned r.word r.width r.lsb) s .descriptor)

/-- R72: get-signed, whole: its encoding, its result bit by bit and as a number, its failure. Derived: the mark that a
failure leaves, with the run's first fatal cause, is log entries 1 and 2. -/
def Obligations.GetSignedMeetsContract : Prop :=
  ∀ (s : State) (r : Request) (w l : Nat), r.valid = true → r.op = 3#3 → valU r.width = w → valU r.lsb = l →
    decodeRequest r = .getSigned r.word r.width r.lsb ∧
    (w ≤ 64 ∧ w + l ≤ 64 → ∃ x : Word, Answers (.getSigned r.word r.width r.lsb) s (.ok x) ∧
      (w = 0 → x = 0#64) ∧
      (1 ≤ w → (∀ k < 64, x.getLsbD k = if k < w then r.word.getLsbD (l + k) else r.word.getLsbD (l + w - 1)) ∧
        valS x = if valU r.word / 2 ^ l % 2 ^ w < 2 ^ (w - 1) then ((valU r.word / 2 ^ l % 2 ^ w : Nat) : Int)
          else ((valU r.word / 2 ^ l % 2 ^ w : Nat) : Int) - 2 ^ w)) ∧
    (¬(w ≤ 64 ∧ w + l ≤ 64) → EndsFatal (.getSigned r.word r.width r.lsb) s .descriptor)

/-- R80: put-unsigned, whole: its encoding, the new Word bit by bit and as a number, NOFIT, its failure. Derived: the mark
that a failure leaves, with the run's first fatal cause, is log entries 1 and 2. -/
def Obligations.PutUnsignedMeetsContract : Prop :=
  ∀ (s : State) (r : Request) (w l : Nat), r.valid = true → r.op = 4#3 → valU r.width = w → valU r.lsb = l →
    decodeRequest r = .putUnsigned r.word r.width r.lsb r.value ∧
    (w ≤ 64 ∧ w + l ≤ 64 → w ≠ 0 ∧ valU r.value ≤ 2 ^ w - 1 →
      ∃ x : Word, Answers (.putUnsigned r.word r.width r.lsb r.value) s (.ok x) ∧
        (∀ k < 64, x.getLsbD k = if l ≤ k ∧ k < l + w then r.value.getLsbD (k - l) else r.word.getLsbD k) ∧
        (valU x : Int) = valU r.word - (valU r.word / 2 ^ l % 2 ^ w * 2 ^ l : Nat) + (valU r.value * 2 ^ l : Nat)) ∧
    (w ≤ 64 ∧ w + l ≤ 64 → w = 0 ∨ valU r.value > 2 ^ w - 1 →
      Answers (.putUnsigned r.word r.width r.lsb r.value) s .noFit) ∧
    (¬(w ≤ 64 ∧ w + l ≤ 64) → EndsFatal (.putUnsigned r.word r.width r.lsb r.value) s .descriptor)

/-- R82: put-signed, whole: its encoding, the new Word bit by bit, the number its field holds, NOFIT, its failure. Derived:
the mark that a failure leaves, with the run's first fatal cause, is log entries 1 and 2. -/
def Obligations.PutSignedMeetsContract : Prop :=
  ∀ (s : State) (r : Request) (w l : Nat), r.valid = true → r.op = 5#3 → valU r.width = w → valU r.lsb = l →
    decodeRequest r = .putSigned r.word r.width r.lsb r.value ∧
    (w ≤ 64 ∧ w + l ≤ 64 →
      w ≠ 0 ∧ -(2 : Int) ^ (w - 1) ≤ valS r.value ∧ valS r.value ≤ (2 : Int) ^ (w - 1) - 1 →
      ∃ x : Word, Answers (.putSigned r.word r.width r.lsb r.value) s (.ok x) ∧
        (∀ k < 64, x.getLsbD k = if l ≤ k ∧ k < l + w then r.value.getLsbD (k - l) else r.word.getLsbD k) ∧
        ((valU x / 2 ^ l % 2 ^ w : Nat) : Int) = valS r.value % 2 ^ w) ∧
    (w ≤ 64 ∧ w + l ≤ 64 →
      w = 0 ∨ valS r.value < -(2 : Int) ^ (w - 1) ∨ valS r.value > (2 : Int) ^ (w - 1) - 1 →
      Answers (.putSigned r.word r.width r.lsb r.value) s .noFit) ∧
    (¬(w ≤ 64 ∧ w + l ≤ 64) → EndsFatal (.putSigned r.word r.width r.lsb r.value) s .descriptor)

/-- R37, R99: a reserved op code ends with `Fatal(Op)` whatever the operands are. The fatal outcome is its whole effect.
Derived: the mark, with the run's first fatal cause, is log entries 1 and 2. -/
def Obligations.ReservedOpCodesEndFatal : Prop :=
  ∀ (s : State) (word width lsb value : Word),
    EndsFatal .reserved6 s .op ∧ EndsFatal .reserved7 s .op ∧
    EndsFatal (decodeRequest ⟨true, 6#3, word, width, lsb, value⟩) s .op ∧
    EndsFatal (decodeRequest ⟨true, 7#3, word, width, lsb, value⟩) s .op ∧
    (Response.fatal .op).status.code = 4#3 ∧ (Response.fatal .op).result = 0#64

/-- R39: with `valid` = 0 the response is IDLE with result 0, whatever the other inputs are, and no run is marked.
Derived: that IDLE is recorded among the run's responses is log entry 14. -/
def Obligations.NoRequestAnswersIdle : Prop :=
  ∀ (s : State) (op : BitVec 3) (word width lsb value : Word),
    Answers .idle s .idle ∧ Answers (decodeRequest ⟨false, op, word, width, lsb, value⟩) s .idle ∧
    Response.idle.status.code = 0#3 ∧ Response.idle.result = 0#64

/-- R97: the six operations with a failing check: status FATAL_DESC, result 0, no Word, the run marked (R98). Derived: the
mark, with the run's first fatal cause, is log entries 1 and 2. -/
def Obligations.MalformedDescriptorsEndFatal : Prop :=
  ∀ (s : State) (word width lsb value : Word),
    (widthOk width = false → EndsFatal (.fitsUnsigned value width) s .descriptor ∧
      EndsFatal (.fitsSigned value width) s .descriptor) ∧
    (descOk width lsb = false → EndsFatal (.getUnsigned word width lsb) s .descriptor ∧
      EndsFatal (.getSigned word width lsb) s .descriptor ∧
      EndsFatal (.putUnsigned word width lsb value) s .descriptor ∧
      EndsFatal (.putSigned word width lsb value) s .descriptor) ∧
    (Response.fatal .descriptor).status.code = 3#3 ∧ (Response.fatal .descriptor).result = 0#64

/-! ### Fit predicates -/

/-- Derived (R61, R63): the datapath of the two predicates decides the same values as their ranges, in every form the
rules give. -/
def Obligations.FitDatapathsDecideRanges : Prop :=
  ∀ (value : Word) (w : Amount) (h : w ≠ 0),
    (lsr value w = 0#64 ↔ valU value ≤ 2 ^ w.val - 1) ∧
    (value &&& ~~~(mask w) = 0#64 ↔ valU value ≤ 2 ^ w.val - 1) ∧
    (sext value w h = value ↔ -(2 : Int) ^ (w.val - 1) ≤ valS value ∧ valS value ≤ (2 : Int) ^ (w.val - 1) - 1) ∧
    (sext value w h = value ↔ ∀ i, w.val - 1 ≤ i → i < 64 → value.getLsbD i = value.getLsbD 63)

/-- R64, R66: width 0 answers false for every value, and any width above 64 is fatal; R65: width 64 answers true for every
value. Derived: the mark that the fatal outcome leaves, with the run's first fatal cause, is log entries 1 and 2. -/
def Obligations.FitPredicatesAtEdgeWidths : Prop :=
  ∀ (s : State) (value width : Word),
    (Answers (.fitsUnsigned value 0#64) s (.ok 0#64) ∧ Answers (.fitsSigned value 0#64) s (.ok 0#64)) ∧
    (Answers (.fitsUnsigned value 64#64) s (.ok 1#64) ∧ Answers (.fitsSigned value 64#64) s (.ok 1#64)) ∧
    (64 < valU width → EndsFatal (.fitsUnsigned value width) s .descriptor ∧
      EndsFatal (.fitsSigned value width) s .descriptor)

/-- R67: the boundary values of both predicates, at every width at which each has an instance; (c) and the widths beyond
the source's are the spec's own inference. -/
def Obligations.FitBoundariesAreExact : Prop :=
  ∀ w : Nat, 1 ≤ w → w ≤ 64 →
    fitsUnsigned (BitVec.ofNat 64 (2 ^ w - 1)) (BitVec.ofNat 64 w) = .ok 1#64 ∧
    (w ≤ 63 → fitsUnsigned (BitVec.ofNat 64 (2 ^ w)) (BitVec.ofNat 64 w) = .ok 0#64) ∧
    fitsSigned (tc64 (2 ^ (w - 1) - 1)) (BitVec.ofNat 64 w) = .ok 1#64 ∧
    (w ≤ 63 → fitsSigned (tc64 (2 ^ (w - 1))) (BitVec.ofNat 64 w) = .ok 0#64) ∧
    fitsSigned (tc64 (-(2 ^ (w - 1)))) (BitVec.ofNat 64 w) = .ok 1#64 ∧
    (w ≤ 63 → fitsSigned (tc64 (-(2 ^ (w - 1)) - 1)) (BitVec.ofNat 64 w) = .ok 0#64)

/-- Derived (R68): both predicates are monotone in the width; a non-negative value needs one more bit signed than
unsigned; a value with bit 63 set fits unsigned only at width 64. -/
def Obligations.FitPredicatesAreRelated : Prop :=
  ∀ (value width width' : Word), valU width ≤ valU width' → valU width' ≤ 64 →
    (fitsUnsigned value width = .ok 1#64 → fitsUnsigned value width' = .ok 1#64) ∧
    (fitsSigned value width = .ok 1#64 → fitsSigned value width' = .ok 1#64) ∧
    (value.getLsbD 63 = false → (fitsSigned value width = .ok 1#64 ↔
      (2 ≤ valU width ∧ fitsUnsigned value (width - 1#64) = .ok 1#64) ∨ (valU width = 1 ∧ value = 0#64))) ∧
    (value.getLsbD 63 = true → (fitsUnsigned value width = .ok 1#64 ↔ valU width = 64))

/-! ### Extraction -/

/-- Derived (R77): the two extractions are each other's extension and truncation; they agree exactly where the field's top
bit is clear or the field is the whole Word; and they are fatal on the same descriptors. -/
def Obligations.ExtractionsAreRelated : Prop :=
  (∀ (word : Word) (f : FieldRange) (h : f.widthAmount ≠ 0),
    extractSigned word f = sext (extractUnsigned word f) f.widthAmount h ∧
    extractUnsigned word f = trunc (extractSigned word f) f.widthAmount ∧
    (extractSigned word f = extractUnsigned word f ↔
      word.getLsbD (f.lsb + f.width - 1) = false ∨ f.width = 64)) ∧
  ∀ word width lsb : Word,
    (getUnsigned word width lsb = .fatal .descriptor ↔ getSigned word width lsb = .fatal .descriptor) ∧
    (valU width = 0 → getUnsigned word width lsb = getSigned word width lsb)

/-- R75: get-*(word, 64, 0) is word (the reference code's behaviour there is unknown, U3); with R74, derived in part: a
well-formed descriptor of width 0 gives 0 whatever word holds. -/
def Obligations.ExtractionAtEdgeWidths : Prop :=
  ∀ (s : State) (word lsb : Word),
    (Answers (.getUnsigned word 64#64 0#64) s (.ok word) ∧ Answers (.getSigned word 64#64 0#64) s (.ok word)) ∧
    (valU lsb ≤ 64 → Answers (.getUnsigned word 0#64 lsb) s (.ok 0#64) ∧
      Answers (.getSigned word 0#64 lsb) s (.ok 0#64)) ∧
    ∀ width : Word, descOk width lsb = true → valU width = 64 → lsb = 0#64

/-- Derived (R79): extraction reads only the field, and what it returns fits the field's width. -/
def Obligations.ExtractionReadsOnlyTheField : Prop :=
  ∀ word word' width lsb : Word,
    ((∀ i, valU lsb ≤ i → i < valU lsb + valU width → word.getLsbD i = word'.getLsbD i) →
      getUnsigned word width lsb = getUnsigned word' width lsb ∧
      getSigned word width lsb = getSigned word' width lsb) ∧
    (∀ x, getUnsigned word width lsb = .ok x →
      valU x < 2 ^ valU width ∧ (1 ≤ valU width → fitsUnsigned x width = .ok 1#64)) ∧
    ∀ x, getSigned word width lsb = .ok x → 1 ≤ valU width → fitsSigned x width = .ok 1#64

/-! ### Insertion -/

/-- R87: at width 64 both insertions return the value (the reference code's behaviour there is unknown, U3); with R84 on
the two edges of a Word and, derived (R86), NOFIT for every value at width 0. -/
def Obligations.InsertionAtEdges : Prop :=
  ∀ (s : State) (word lsb value : Word) (f : FieldRange),
    (Answers (.putUnsigned word 64#64 0#64 value) s (.ok value) ∧
      Answers (.putSigned word 64#64 0#64 value) s (.ok value)) ∧
    (valU lsb ≤ 64 → Answers (.putUnsigned word 0#64 lsb value) s .noFit ∧
      Answers (.putSigned word 0#64 lsb value) s .noFit) ∧
    (f.lsb = 0 → rightPart word f = 0#64 ∧ mergeField word f value = leftPart word f ||| value) ∧
    (f.lsb + f.width = 64 → leftPart word f = 0#64 ∧
      mergeField word f value = shl value f.lsbAmount ||| rightPart word f)

/-- Derived (R83): the source's "(invert, shift, invert, shift)" gives the truncated pattern of a negative value that fits,
and a non-negative value that fits is its own pattern. -/
def Obligations.NegativePatternIsTruncation : Prop :=
  ∀ (value : Word) (w : Amount), fitsSignedBit value w = true →
    (value.getLsbD 63 = true →
      lsr (~~~(shl (~~~value) (complement w))) (complement w) = trunc value w) ∧
    (value.getLsbD 63 = false → trunc value w = value)

/-- R88: the descriptor check comes first: a malformed descriptor is fatal whether or not the value fits, and NOFIT is
answered only for a well-formed one. Derived: the mark, with the run's first fatal cause, is log entries 1 and 2. -/
def Obligations.DescriptorCheckComesFirst : Prop :=
  (∀ (s : State) (word width lsb value : Word), descOk width lsb = false →
    EndsFatal (.putUnsigned word width lsb value) s .descriptor ∧
    EndsFatal (.putSigned word width lsb value) s .descriptor) ∧
  (∀ word width lsb value : Word, putUnsigned word width lsb value = .noFit ∨ putSigned word width lsb value = .noFit →
    descOk width lsb = true) ∧
  putUnsigned 0#64 4#64 61#64 99#64 = .fatal .descriptor ∧ putUnsigned 0#64 4#64 60#64 99#64 = .noFit

/-- R89 (its first part): what is put is read back, for both signednesses; every fitting put succeeds. -/
def Obligations.PutThenGetReturnsValue : Prop :=
  ∀ (s s' : State) (word width lsb value : Word), descOk width lsb = true → 1 ≤ valU width →
    (fitsUnsigned value width = .ok 1#64 → ∃ r, Answers (.putUnsigned word width lsb value) s (.ok r) ∧
      Answers (.getUnsigned r width lsb) s' (.ok value)) ∧
    (fitsSigned value width = .ok 1#64 → ∃ r, Answers (.putSigned word width lsb value) s (.ok r) ∧
      Answers (.getSigned r width lsb) s' (.ok value))

/-- Derived (R89, the mixed trips): reading with the other signedness truncates or sign-extends the value. -/
def Obligations.MixedRoundTripsConvert : Prop :=
  ∀ (word width lsb value r : Word) (w : Amount) (h : w ≠ 0), w.val = valU width →
    (putSigned word width lsb value = .ok r → getUnsigned r width lsb = .ok (trunc value w)) ∧
    (putUnsigned word width lsb value = .ok r → getSigned r width lsb = .ok (sext value w h))

/-- R90: the bits outside [lsb, lsb + width) are those of word, and so a field disjoint from that range reads the same
afterwards. -/
def Obligations.InsertionKeepsOutsideBits : Prop :=
  ∀ word width lsb value r : Word,
    putUnsigned word width lsb value = .ok r ∨ putSigned word width lsb value = .ok r →
    (∀ i < 64, i < valU lsb ∨ valU lsb + valU width ≤ i → r.getLsbD i = word.getLsbD i) ∧
    ∀ width' lsb' : Word, valU lsb' + valU width' ≤ valU lsb ∨ valU lsb + valU width ≤ valU lsb' →
      getUnsigned r width' lsb' = getUnsigned word width' lsb' ∧ getSigned r width' lsb' = getSigned word width' lsb'

/-- Derived (R91): where both insertions succeed they return the same Word; which values both accept. -/
def Obligations.InsertionsDifferInPredicateOnly : Prop :=
  ∀ word width lsb value : Word,
    (∀ a b, putUnsigned word width lsb value = .ok a → putSigned word width lsb value = .ok b → a = b) ∧
    (descOk width lsb = true → 1 ≤ valU width → valU width ≤ 63 →
      (((∃ a, putUnsigned word width lsb value = .ok a) ∧ ∃ b, putSigned word width lsb value = .ok b) ↔
        ∀ i, valU width - 1 ≤ i → i < 64 → value.getLsbD i = false)) ∧
    (descOk width lsb = true → valU width = 64 →
      putUnsigned word width lsb value = .ok value ∧ putSigned word width lsb value = .ok value)

/-- Derived (R92): putting twice, overwriting, commuting on disjoint fields, and putting back what was read. -/
def Obligations.InsertionsObeyFieldLaws : Prop :=
  (∀ put : Word → Word → Word → Word → Response, put = putUnsigned ∨ put = putSigned →
    ∀ word width lsb v r : Word, put word width lsb v = .ok r →
      put r width lsb v = .ok r ∧
      ∀ put' : Word → Word → Word → Word → Response, put' = putUnsigned ∨ put' = putSigned →
        (∀ v' r', put' r width lsb v' = .ok r' → put' word width lsb v' = .ok r') ∧
        ∀ width' lsb' v' r' : Word, valU lsb + valU width ≤ valU lsb' ∨ valU lsb' + valU width' ≤ valU lsb →
          put' word width' lsb' v' = .ok r' →
          ∃ both, put' r width' lsb' v' = .ok both ∧ put r' width lsb v = .ok both) ∧
  ∀ word width lsb x : Word, 1 ≤ valU width →
    (getUnsigned word width lsb = .ok x → putUnsigned word width lsb x = .ok word) ∧
    (getSigned word width lsb = .ok x → putSigned word width lsb x = .ok word)

/-! ### The block as a whole -/

/-- Derived (R8): the datapaths and the contracts give the same response to every request. -/
def Obligations.DatapathsMeetContracts : Prop :=
  ∀ r : Request, blockF r = contractF r

/-- R42, R15: every request is answered, in every state, and the answer is F of the six ports; a fatal one marks the run,
any other changes nothing but the outputs and the record. Derived: the mark is log entries 1 and 2, the record of IDLE log
entry 14. -/
def Obligations.EveryRequestIsAnsweredByF : Prop :=
  ∀ (s : State) (r : Request),
    exec (decodeRequest r) s = .next (s.respond (blockF r)) ∧
    (fatalCause (blockF r) = none → Answers (decodeRequest r) s (blockF r)) ∧
    ∀ c, blockF r = .fatal c → EndsFatal (decodeRequest r) s c

/-- R101, R112: which of the five outcomes a request has, by the first condition that applies; NOFIT from insertions only. -/
def Obligations.OutcomesFollowPriority : Prop :=
  ∀ r : Request,
    (blockF r = .idle ↔ r.valid = false) ∧
    (blockF r = .fatal .op ↔ r.valid = true ∧ 6 ≤ r.op.toNat) ∧
    (blockF r = .fatal .descriptor ↔ r.valid = true ∧
      (r.op.toNat < 2 ∧ widthOk r.width = false ∨
        2 ≤ r.op.toNat ∧ r.op.toNat < 6 ∧ descOk r.width r.lsb = false)) ∧
    (blockF r = .noFit ↔ r.valid = true ∧ descOk r.width r.lsb = true ∧
      (r.op = 4#3 ∧ fitsUnsigned r.value r.width = .ok 0#64 ∨
        r.op = 5#3 ∧ fitsSigned r.value r.width = .ok 0#64)) ∧
    ((∃ x, blockF r = .ok x) ↔ r.valid = true ∧ r.op.toNat < 6 ∧
      (r.op.toNat < 2 → widthOk r.width = true) ∧ (2 ≤ r.op.toNat → descOk r.width r.lsb = true) ∧
      (r.op = 4#3 → fitsUnsigned r.value r.width = .ok 1#64) ∧
      (r.op = 5#3 → fitsSigned r.value r.width = .ok 1#64))

/-- R19, R25: equal requests have equal responses, whatever came before: no state is read. -/
def Obligations.ResponseDependsOnRequestAlone : Prop :=
  ∀ (i : Instr) (s s' t t' : State), exec i s = .next t → exec i s' = .next t' → t.output = t'.output

/-- The frame of every instruction: the input ports, the caller's list and its names are as before, the record grows by the
response shown, and the mark changes only from absent, and only by a fatal response (R10, R98). Derived: that a fatal response leaves its
mark in a next state is log entry 1, that a mark that stands survives a later fatal response is log entry 2, and that IDLE is
recorded too is log entry 14: the model's choices. -/
def Obligations.ExecChangesOutputAndRecordOnly : Prop :=
  ∀ (i : Instr) (s t : State), exec i s = .next t →
    t.inputs = s.inputs ∧ t.pending = s.pending ∧ t.names = s.names ∧
    t.responses = s.responses ++ [t.output] ∧
    (fatalCause t.output = none → t.fault = s.fault) ∧
    (∀ c, s.fault = some c → t.fault = some c) ∧
    (∀ c, s.fault = none → t.output = .fatal c → t.fault = some c)

/-! ### The run -/

/-- R18, R116: at reset, with `valid` = 0, `status` and `result` are 0, as they are in every state with no request left;
no run is under way. Derived: that a step exists on an empty list, drives `valid` to 0 and records nothing is log entry 3;
the other input ports' zeros are log entry 4. -/
def Obligations.ResetShowsIdle : Prop :=
  State.reset.status = 0#3 ∧ State.reset.result = 0#64 ∧ State.reset.inputs.valid = false ∧
  State.reset.pending = [] ∧ State.reset.responses = [] ∧ State.reset.names = [] ∧ State.reset.fault = none ∧
  ∀ s : State, s.fault = none → s.pending = [] →
    ∃ t, step s = .next t ∧ t.inputs.valid = false ∧ t.status = 0#3 ∧ t.result = 0#64 ∧
      t.responses = s.responses ∧ t.names = s.names ∧ t.fault = none ∧ t.pending = []

/-- A step with a request next in the caller's list drives the ports with it and runs the instruction it decodes to; a word
of the opcode table placed by `withFetchWord` is run so (log entry 6; how the table's words are numbered is log entry 5). -/
def Obligations.StepRunsDecodedInstruction : Prop :=
  (∀ (s : State) (r : Request) (rest : List Action), s.fault = none → s.pending = .drive r :: rest →
    step s = exec (decodeRequest r) { s with pending := rest, inputs := r }) ∧
  ∀ (s : State) (nbits w : Nat) (r : Request), tableRequest nbits w = some r →
    decodeTableWord nbits w = some (decodeRequest r) ∧
    step (s.withFetchWord nbits w) = exec (decodeRequest r) { s with inputs := r, fault := none }

/-- A step with a line next in the caller's list makes the line's request, and binds the line's name to the response and no
other name (R40; that a name is bound to an outcome that is not OK as well is log entry 9, the mark in a next state log entry 1). -/
def Obligations.StepRunsLineAndBinds : Prop :=
  ∀ (s : State) (l : Line) (rest : List Action) (r : Request),
    s.fault = none → s.pending = .line l :: rest → lineRequest s.names l = .ok r →
    ∃ t, step s = .next t ∧ t.inputs = r ∧ t.output = blockF r ∧ t.pending = rest ∧
      t.responses = s.responses ++ [blockF r] ∧ t.fault = fatalCause (blockF r) ∧
      (∀ x, l.bind = some x → lookupName t.names x = some (blockF r)) ∧
      ∀ x, l.bind ≠ some x → lookupName t.names x = lookupName s.names x

/-- R41: a well-formed line whose names are bound to OK results makes one request, with `valid` = 1, the op code of its
operation, and 0 on every port the operation does not name. Derived: which names are well formed is log entry 10. -/
def Obligations.LineEncodesToOneRequest : Prop :=
  ∀ (env : List (Name × Response)) (l : Line), l.wf = true →
    (∀ x, Arg.name x ∈ l.args → ∃ v, lookupName env x = some (.ok v)) →
    ∃ r, lineRequest env l = .ok r ∧ r.valid = true ∧ r.op = l.op.code ∧ encodeRequest (decodeRequest r) = r ∧
      (l.op.format = .f → r.word = 0#64 ∧ r.lsb = 0#64) ∧ (l.op.format = .g → r.value = 0#64)

/-- Every argument of a line is carried by the port of its place, in the order of the textual form: a literal in range as its
64-bit value, a negative one in two's complement, a name as the Word of the OK result it is bound to (R40, R44; 20_memory.md
R25 (c)), whether or not the line binds a name itself. A negative literal anywhere but the `value` of fits-signed and
put-signed is refused, and so is a literal out of range (R44). Derived: which names are well formed is log
entry 10. -/
def Obligations.LineOperandsInOrder : Prop :=
  ∀ (env : List (Name × Response)) (bind : Option Name) (op : Operation), (∀ x, bind = some x → nameWf x = true) →
    (∀ (a b c d : Arg) (wa wb wc wd : Word),
      Denotes env a wa → Denotes env b wb → Denotes env c wc → Denotes env d wd →
      a.wf = true → b.wf = true → c.wf = true → d.wf = true → b.isNeg = false → c.isNeg = false →
      (op.format = .f → (a.isNeg = true → op = .fitsSigned) →
        lineRequest env ⟨bind, op, [a, b]⟩ = .ok ⟨true, op.code, 0#64, wb, 0#64, wa⟩) ∧
      (op.format = .g → a.isNeg = false →
        lineRequest env ⟨bind, op, [a, b, c]⟩ = .ok ⟨true, op.code, wa, wb, wc, 0#64⟩) ∧
      (op.format = .p → a.isNeg = false → (d.isNeg = true → op = .putSigned) →
        lineRequest env ⟨bind, op, [a, b, c, d]⟩ = .ok ⟨true, op.code, wa, wb, wc, wd⟩)) ∧
    ∀ (before after : List Arg) (n : Nat),
      (¬(op = .fitsSigned ∧ before.length = 0) → ¬(op = .putSigned ∧ before.length = 3) →
        lineRequest env ⟨bind, op, before ++ .neg n :: after⟩ = .error .illFormedLine) ∧
      (2 ^ 63 < n → lineRequest env ⟨bind, op, before ++ .neg n :: after⟩ = .error .illFormedLine) ∧
      (2 ^ 64 ≤ n → lineRequest env ⟨bind, op, before ++ .dec n :: after⟩ = .error .illFormedLine ∧
        lineRequest env ⟨bind, op, before ++ .hex n :: after⟩ = .error .illFormedLine)

/-- A line that uses the result of a line that was not OK is refused (R110, R120), an argument that is no literal must be a bound
name (R44), and no step is defined for an indefinite input (R116). Derived, and the model's choices: that a name is bound to an
outcome that is not OK, so that its use is refused as `nonOkResult` and the use of a name without a binding as `unboundName`, is
log entry 9; that an indefinite input is an action refused by name is log entry 11; which names are well formed is log
entry 10. -/
def Obligations.CallerErrorsAreRefused : Prop :=
  ∀ (s : State) (rest : List Action), s.fault = none →
    (s.pending = .indefinite :: rest → step s = .refused .indefiniteInput) ∧
    ∀ l : Line, s.pending = .line l :: rest → l.wf = true →
      (∃ x, Arg.name x ∈ l.args ∧ ∀ v, lookupName s.names x ≠ some (.ok v)) →
      ∃ x, Arg.name x ∈ l.args ∧
        ((lookupName s.names x = none ∧ step s = .refused (.unboundName x)) ∨
          ∃ o, lookupName s.names x = some o ∧ (∀ v, o ≠ .ok v) ∧ step s = .refused (.nonOkResult x))

/-- R121, R98: after a fatal outcome no step is performed, and no step clears or changes the mark. Derived: that
the fatal outcome's own step answers a next state with the mark, and the step after it faults, is log entry 1. -/
def Obligations.FaultedRunPerformsNothing : Prop :=
  (∀ (s : State) (c : Cause), s.fault = some c → step s = .fault (.runFaulted c)) ∧
  (∀ (s : State) (e : Fault), step s = .fault e → ∃ c, e = .runFaulted c ∧ s.fault = some c) ∧
  ∀ s t : State, step s = .next t → s.fault = none ∧ (t.fault = none ∨ ∃ c, t.output = .fatal c ∧ t.fault = some c)

/-- R15: in every state a step reaches from a state where the outputs are F of the inputs, they are so again. Derived:
that a step with an empty list rests is log entry 3. -/
def Obligations.StepKeepsOutputsCombinational : Prop :=
  ∀ s t : State, s.Combinational → step s = .next t → t.Combinational

/-- R103: a step keeps the mark honest: a run has at most one fatal outcome, it is its last response, and the mark is its
cause. Derived: the mark in a next state is log entry 1, the step with an empty list log entry 3. -/
def Obligations.StepKeepsFaultMarkHonest : Prop :=
  ∀ s t : State, s.FaultHonest → step s = .next t → t.FaultHonest

/-- The two invariants hold at reset. -/
def Obligations.InvariantsHoldAtReset : Prop :=
  State.reset.Combinational ∧ State.reset.FaultHonest

/-- R25 (a), R124: a run of requests without a fatal outcome ends with the responses being the pointwise image of the
requests under F, its list exhausted, and no fault. Derived: that IDLE is among the responses is log entry 14. -/
def Obligations.RunIsPointwiseImageUnderF : Prop :=
  ∀ (rs : List Request) (s : State), s.fault = none → s.pending = rs.map .drive →
    (∀ r ∈ rs, fatalCause (blockF r) = none) →
    ∃ t : State, Sys2Proof.core.run rs.length s = .next t ∧ t.responses = s.responses ++ rs.map blockF ∧
      t.pending = [] ∧ t.fault = none ∧ t.names = s.names

/-- R124: a run is over and faulted at its first fatal outcome, and the requests after it are not performed. Derived:
the mark in a next state and the fault of the step after it are log entry 1, the record of IDLE log entry 14. -/
def Obligations.RunStopsAtFirstFatalOutcome : Prop :=
  ∀ (before : List Request) (bad : Request) (after : List Request) (c : Cause) (s : State),
    s.fault = none → s.pending = (before ++ bad :: after).map .drive →
    (∀ r ∈ before, fatalCause (blockF r) = none) → blockF bad = .fatal c →
    (∃ t : State, Sys2Proof.core.run (before.length + 1) s = .next t ∧
      t.responses = s.responses ++ before.map blockF ++ [.fatal c] ∧
      t.fault = some c ∧ t.pending = after.map .drive) ∧
    ∀ n, Sys2Proof.core.run (before.length + 1 + (n + 1)) s = .fault (.runFaulted c)

/-- R44: the numbers of the textual form are read back from the way they are written. Derived: the case of the hexadecimal
digits, read and written, is log entries 10 and 18. -/
def Obligations.WrittenNumbersReadBack : Prop :=
  ∀ n : Nat, n < 2 ^ 64 →
    readArg (writeArg (.dec n)) = .ok (.dec n) ∧ readArg (writeArg (.hex n)) = .ok (.hex n) ∧
    readArg (writeArg (.neg n)) = .ok (.neg n)
end

