-- ==== Sys2Proof/Laws/Checks.lean ====
section
/-! SUPPORT. What the validity checks say, for the proofs to cite instead of unfolding them. -/

namespace Sys2Proof.Machine

variable {width lsb : Word}

/-- The unsigned reading is Lean's own. -/
@[simp] theorem valU_eq_toNat (b : Word) : valU b = b.toNat := rfl

/-- The decided policy adds nothing to the two inequalities of R53. -/
theorem descOk_iff : descOk width lsb = true ↔ width.toNat + lsb.toNat ≤ 64 := by
  simp only [descOk, descOkUnder, Config.lsb64Policy, Bool.and_true, Bool.and_eq_true, decide_eq_true_eq, valU]
  omega

/-- The two inequalities of R53 are the one of their sum. -/
theorem descOk_iff_le : descOk width lsb = true ↔ valU width ≤ 64 ∧ valU width + valU lsb ≤ 64 := by
  rw [descOk_iff, valU, valU]; omega

theorem widthOk_iff : widthOk width = true ↔ width.toNat ≤ 64 := by
  simp [widthOk]

/-- A checked descriptor is the request's own numbers. -/
theorem descCheck_eq_some {f : FieldRange} :
    descCheck width lsb = some f ↔ f.width = width.toNat ∧ f.lsb = lsb.toNat := by
  have := f.fits
  unfold descCheck
  split
  · rename_i h
    cases f
    simp [eq_comm]
  · rename_i h
    simp only [descOk_iff] at h
    simp only [reduceCtorEq, false_iff]
    omega

theorem descCheck_eq_none : descCheck width lsb = none ↔ descOk width lsb = false := by
  unfold descCheck
  split <;> simp_all

/-- Where the check passes there is a field with the request's numbers. -/
theorem exists_field (h : descOk width lsb = true) :
    ∃ f, descCheck width lsb = some f ∧ f.width = width.toNat ∧ f.lsb = lsb.toNat := by
  refine ⟨⟨valU width, valU lsb, descOkUnder_sum_le h⟩, ?_, rfl, rfl⟩
  simp [descCheck, h]

theorem widthCheck_eq_some {w : Amount} : widthCheck width = some w ↔ w.val = width.toNat := by
  unfold widthCheck
  split
  · simp [Fin.ext_iff, eq_comm]
  · rename_i h
    simp only [widthOk_iff] at h
    simp only [reduceCtorEq, false_iff]
    omega

theorem widthCheck_eq_none : widthCheck width = none ↔ widthOk width = false := by
  unfold widthCheck
  split <;> simp_all

/-- Where the check passes there is an amount with the request's number. -/
theorem exists_width (h : widthOk width = true) :
    ∃ w : Amount, widthCheck width = some w ∧ w.val = width.toNat :=
  ⟨⟨valU width, Nat.lt_succ_of_le (of_decide_eq_true h)⟩, by simp [widthCheck, h], rfl⟩

@[simp] theorem widthAmount_val (f : FieldRange) : f.widthAmount.val = f.width := rfl
@[simp] theorem lsbAmount_val (f : FieldRange) : f.lsbAmount.val = f.lsb := rfl
@[simp] theorem endAmount_val (f : FieldRange) : f.endAmount.val = f.lsb + f.width := rfl

/-- The signed reading is Lean's own. -/
theorem valS_eq_toInt (b : Word) : valS b = b.toInt := by
  have := b.isLt
  rw [valS, BitVec.toInt_eq_msb_cond, BitVec.msb_eq_getLsbD_last]
  cases b.getLsbD (64 - 1) <;> simp

end Sys2Proof.Machine
end

