-- ==== Sys2Proof/Laws/PerInstr.lean ====
section
/-! SUPPORT. A statement about every instruction as syntax, one lemma per constructor: the canonical request of an
instruction carries the header of its row (30_encoding.md R33, R41). -/

namespace Sys2Proof.Laws.HeaderOfRequest

/-- The header `{valid, op}` of the canonical request is that of the instruction's row. -/
def Statement (i : Instr) : Prop :=
  BitVec.ofBool (encodeRequest i).valid ++ (encodeRequest i).op = i.header

theorem fitsUnsigned (value width : Word) : Statement (.fitsUnsigned value width) := by
  simp only [Statement, encodeRequest, Instr.header]; decide
theorem fitsSigned (value width : Word) : Statement (.fitsSigned value width) := by
  simp only [Statement, encodeRequest, Instr.header]; decide
theorem getUnsigned (word width lsb : Word) : Statement (.getUnsigned word width lsb) := by
  simp only [Statement, encodeRequest, Instr.header]; decide
theorem getSigned (word width lsb : Word) : Statement (.getSigned word width lsb) := by
  simp only [Statement, encodeRequest, Instr.header]; decide
theorem putUnsigned (word width lsb value : Word) : Statement (.putUnsigned word width lsb value) := by
  simp only [Statement, encodeRequest, Instr.header]; decide
theorem putSigned (word width lsb value : Word) : Statement (.putSigned word width lsb value) := by
  simp only [Statement, encodeRequest, Instr.header]; decide
theorem reserved6 : Statement .reserved6 := rfl
theorem reserved7 : Statement .reserved7 := rfl
theorem idle : Statement .idle := rfl

end Sys2Proof.Laws.HeaderOfRequest
end

