-- ==== Sys2Proof/Laws/State.lean ====
section
/-! SUPPORT. One lemma per field per update of the state, so that no later proof unfolds a record update. -/

namespace Sys2Proof.Machine

variable (s : State) (r : Request) (o : Response)

@[simp] theorem driveInputs_inputs : (s.driveInputs r).inputs = r := rfl
@[simp] theorem driveInputs_output : (s.driveInputs r).output = s.output := rfl
@[simp] theorem driveInputs_pending : (s.driveInputs r).pending = s.pending := rfl
@[simp] theorem driveInputs_names : (s.driveInputs r).names = s.names := rfl
@[simp] theorem driveInputs_responses : (s.driveInputs r).responses = s.responses := rfl
@[simp] theorem driveInputs_fault : (s.driveInputs r).fault = s.fault := rfl

@[simp] theorem respond_inputs : (s.respond o).inputs = s.inputs := rfl
@[simp] theorem respond_output : (s.respond o).output = o := rfl
@[simp] theorem respond_pending : (s.respond o).pending = s.pending := rfl
@[simp] theorem respond_names : (s.respond o).names = s.names := rfl
@[simp] theorem respond_responses : (s.respond o).responses = s.responses ++ [o] := rfl
@[simp] theorem respond_fault : (s.respond o).fault = markFault s.fault o := rfl

@[simp] theorem rest_inputs : s.rest.inputs = Request.noRequest := rfl
@[simp] theorem rest_output : s.rest.output = .idle := rfl
@[simp] theorem rest_pending : s.rest.pending = s.pending := rfl
@[simp] theorem rest_names : s.rest.names = s.names := rfl
@[simp] theorem rest_responses : s.rest.responses = s.responses := rfl
@[simp] theorem rest_fault : s.rest.fault = s.fault := rfl

@[simp] theorem bindOutput_none : s.bindOutput none = s := rfl
@[simp] theorem bindOutput_inputs (b : Option Name) : (s.bindOutput b).inputs = s.inputs := by cases b <;> rfl
@[simp] theorem bindOutput_output (b : Option Name) : (s.bindOutput b).output = s.output := by cases b <;> rfl
@[simp] theorem bindOutput_pending (b : Option Name) : (s.bindOutput b).pending = s.pending := by cases b <;> rfl
@[simp] theorem bindOutput_responses (b : Option Name) : (s.bindOutput b).responses = s.responses := by cases b <;> rfl
@[simp] theorem bindOutput_fault (b : Option Name) : (s.bindOutput b).fault = s.fault := by cases b <;> rfl
@[simp] theorem bindOutput_names_some (x : Name) :
    (s.bindOutput (some x)).names = bindName s.names x s.output := rfl

@[simp] theorem withFetchWord_pending (n w : Nat) :
    (s.withFetchWord n w).pending = tableAction n w :: s.pending := rfl
@[simp] theorem withFetchWord_fault (n w : Nat) : (s.withFetchWord n w).fault = none := rfl
@[simp] theorem withFetchWord_inputs (n w : Nat) : (s.withFetchWord n w).inputs = s.inputs := rfl
@[simp] theorem withFetchWord_output (n w : Nat) : (s.withFetchWord n w).output = s.output := rfl
@[simp] theorem withFetchWord_names (n w : Nat) : (s.withFetchWord n w).names = s.names := rfl
@[simp] theorem withFetchWord_responses (n w : Nat) : (s.withFetchWord n w).responses = s.responses := rfl

@[simp] theorem markFault_some (c : Cause) : markFault (some c) o = some c := rfl
@[simp] theorem markFault_none : markFault none o = fatalCause o := rfl

/-- An outcome that is not fatal leaves the mark as it was. -/
theorem markFault_of_not_fatal {o : Response} (h : fatalCause o = none) (m : Option Cause) : markFault m o = m := by
  cases m <;> simp [h]

/-- A fatal outcome leaves its cause, or the earlier one. -/
theorem markFault_fatal (m : Option Cause) (c : Cause) : markFault m (.fatal c) = some (m.getD c) := by
  cases m <;> rfl

/-- Only a fatal outcome has a cause. -/
theorem fatalCause_eq_some {o : Response} {c : Cause} : fatalCause o = some c ↔ o = .fatal c := by
  cases o <;> simp [fatalCause]

/-- A name just bound reads as its outcome. -/
@[simp] theorem lookupName_bindName_self (env : List (Name × Response)) (x : Name) :
    lookupName (bindName env x o) x = some o := by simp [lookupName, bindName]

/-- Binding a name leaves every other name as it was. -/
theorem lookupName_bindName_of_ne (env : List (Name × Response)) {x y : Name} (h : y ≠ x) :
    lookupName (bindName env x o) y = lookupName env y := by
  simp only [lookupName, bindName, List.find?_cons]
  rw [show ((x == y) = false) by simpa using Ne.symm h]
  simp only [List.find?_filter]
  congr 2
  funext e
  by_cases he : e.1 = y
  · simp [he, h]
  · simp [he]

end Sys2Proof.Machine
end

