-- ==== Sys2Proof/Laws/Run.lean ====
section
/-! SUPPORT. What an instruction, a caller's action and a step can do, said once. -/

namespace Sys2Proof.Machine

/-- Every instruction is answered, and the answer is its whole effect. -/
theorem exec_answers (i : Instr) : ∃ o, ∀ s, exec i s = .next (s.respond o) := by
  cases i <;> exact ⟨_, fun _ => rfl⟩

theorem exec_fitsUnsigned (value width : Word) (s : State) :
    exec (.fitsUnsigned value width) s = .next (s.respond (fitsUnsigned value width)) := rfl
theorem exec_fitsSigned (value width : Word) (s : State) :
    exec (.fitsSigned value width) s = .next (s.respond (fitsSigned value width)) := rfl
theorem exec_getUnsigned (word width lsb : Word) (s : State) :
    exec (.getUnsigned word width lsb) s = .next (s.respond (getUnsigned word width lsb)) := rfl
theorem exec_getSigned (word width lsb : Word) (s : State) :
    exec (.getSigned word width lsb) s = .next (s.respond (getSigned word width lsb)) := rfl
theorem exec_putUnsigned (word width lsb value : Word) (s : State) :
    exec (.putUnsigned word width lsb value) s = .next (s.respond (putUnsigned word width lsb value)) := rfl
theorem exec_putSigned (word width lsb value : Word) (s : State) :
    exec (.putSigned word width lsb value) s = .next (s.respond (putSigned word width lsb value)) := rfl

/-- A transaction is answered, in every state alike. -/
theorem present_answers (r : Request) : ∃ o, ∀ s, present r s = .next ((s.driveInputs r).respond o) := by
  obtain ⟨o, h⟩ := exec_answers (decodeRequest r)
  exact ⟨o, fun s => h _⟩

/-- A faulted run steps no further. -/
theorem step_of_faulted {s : State} {c : Cause} (h : s.fault = some c) : step s = .fault (.runFaulted c) := by
  simp [step, h]

/-- With no action left the ports rest. -/
theorem step_of_done {s : State} (hf : s.fault = none) (hp : s.pending = []) : step s = .next s.rest := by
  simp [step, hf, hp]

/-- Otherwise the next action is performed. -/
theorem step_of_action {s : State} {a : Action} {rest : List Action} (hf : s.fault = none)
    (hp : s.pending = a :: rest) : step s = perform a { s with pending := rest } := by
  simp [step, hf, hp]

/-- What performing an action can lead to: a transaction, with the line's name bound where it is a line's. -/
theorem perform_cases {a : Action} {s t : State} (h : perform a s = .next t) :
    ∃ r b, present r s = .next ((s.driveInputs r).respond t.output) ∧
      t = ((s.driveInputs r).respond t.output).bindOutput b := by
  cases a with
  | drive r =>
    obtain ⟨o, ho⟩ := present_answers r
    obtain rfl : (s.driveInputs r).respond o = t := by simpa [perform, ho] using h
    exact ⟨r, none, ho s, rfl⟩
  | indefinite => simp [perform] at h
  | line l =>
    simp only [perform] at h
    split at h
    · cases h
    · rename_i r _
      obtain ⟨o, ho⟩ := present_answers r
      rw [ho] at h
      obtain rfl : ((s.driveInputs r).respond o).bindOutput l.bind = t := by simpa using h
      exact ⟨r, l.bind, by simpa using ho s, by simp⟩

/-- What a step that answers a next state did: the run was not faulted, and either nothing was left to do and the ports
rest, or the next action was a transaction whose outcome is the output. -/
theorem step_cases {s t : State} (h : step s = .next t) :
    s.fault = none ∧
    ((s.pending = [] ∧ t = s.rest) ∨
      ∃ a rest r b, s.pending = a :: rest ∧
        (∀ u, present r u = .next ((u.driveInputs r).respond t.output)) ∧
        t = ((({ s with pending := rest } : State).driveInputs r).respond t.output).bindOutput b) := by
  have hf : s.fault = none := by
    rcases hf : s.fault with _ | c
    · rfl
    · rw [step_of_faulted hf] at h; cases h
  refine ⟨hf, ?_⟩
  rcases hp : s.pending with _ | ⟨a, rest⟩
  · rw [step_of_done hf hp] at h; cases h; exact .inl ⟨rfl, rfl⟩
  · rw [step_of_action hf hp] at h
    obtain ⟨r, b, hr, ht⟩ := perform_cases h
    obtain ⟨o, ho⟩ := present_answers r
    refine .inr ⟨a, rest, r, b, rfl, fun u => ?_, ht⟩
    rw [ho] at hr ⊢
    have : o = t.output := by simpa using congrArg State.output (Host.Outcome.next.inj hr)
    rw [this]

/-- A property of the state that the rest and every transaction keep is kept by every step. -/
theorem step_keeps {P : State → Prop} (hrest : ∀ s, P s → s.fault = none → P s.rest)
    (hact : ∀ (s : State) (rest : List Action) (r : Request) (b : Option Name) (o : Response), P s → s.fault = none →
      (∀ u, present r u = .next ((u.driveInputs r).respond o)) →
      P (((({ s with pending := rest } : State).driveInputs r).respond o).bindOutput b)) :
    ∀ s t, P s → step s = .next t → P t := by
  intro s t hs h
  obtain ⟨hf, ⟨_, rfl⟩ | ⟨_, rest, r, b, _, hr, ht⟩⟩ := step_cases h
  · exact hrest s hs hf
  · rw [ht]; exact hact s rest r b _ hs hf hr

/-! ### Arguments -/

/-- An argument has a value exactly where it stands for a Word, and then that one. -/
theorem argWord_eq_ok_iff {env : List (Name × Response)} {a : Arg} {w : Word} :
    argWord env a = .ok w ↔ Denotes env a w := by
  constructor
  · intro h
    cases a with
    | dec n => cases h; exact .dec n
    | hex n => cases h; exact .hex n
    | neg n => cases h; exact .neg n
    | name x =>
      simp only [argWord] at h
      split at h
      · cases h
      · rename_i r hr; cases h; exact .name x _ hr
      · cases h
  · rintro (_ | _ | _ | ⟨x, _, hx⟩)
    · rfl
    · rfl
    · rfl
    · simp only [argWord, hx]

/-- A line that binds a proper name, or none, is well formed by its arguments alone. -/
theorem line_wf_of_bind {bind : Option Name} (h : ∀ x, bind = some x → nameWf x = true) (op : Operation)
    (args : List Arg) : Line.wf ⟨bind, op, args⟩ =
      (args.length == op.format.arity && args.all Arg.wf && negativesWf op 0 args) := by
  cases bind with
  | none => simp [Line.wf]
  | some x => simp [Line.wf, h x rfl]

/-! ### Runs of several steps -/

/-- A run of `n + 1` steps whose first step answers a next state goes on from it. -/
theorem run_succ_of_next {s t : State} (h : step s = .next t) (n : Nat) :
    Sys2Proof.core.run (n + 1) s = Sys2Proof.core.run n t := by
  simp only [Host.Core.run]
  rw [show Sys2Proof.core.step s = _ from h]

/-- A run whose first step faults ends with that fault. -/
theorem run_succ_of_fault {s : State} {e : Fault} (h : step s = .fault e) (n : Nat) :
    Sys2Proof.core.run (n + 1) s = .fault e := by
  simp only [Host.Core.run]
  rw [show Sys2Proof.core.step s = _ from h]

/-- A run splits after any number of steps it takes. -/
theorem run_add_of_next {n : Nat} {s t : State} (h : Sys2Proof.core.run n s = .next t) (m : Nat) :
    Sys2Proof.core.run (n + m) s = Sys2Proof.core.run m t := by
  induction n generalizing s with
  | zero => cases h; rw [Nat.zero_add]
  | succ n ih =>
    rw [Nat.add_right_comm]
    cases hs : step s with
    | next u =>
      rw [run_succ_of_next hs] at h ⊢
      exact ih h
    | fault e => rw [run_succ_of_fault hs] at h; cases h
    | refused e =>
      simp only [Host.Core.run] at h
      rw [show Sys2Proof.core.step s = _ from hs] at h
      cases h

end Sys2Proof.Machine
end

