-- ==== Sys2Proof/Laws/Shifter.lean ====
section
/-! SUPPORT. The shifter's primitives read bit by bit; with these a datapath is read off without unfolding it. -/

namespace Sys2Proof.Machine

variable (x : Word) (n : Amount) (i : Nat)

@[simp] theorem complement_val : (complement n).val = 64 - n.val := rfl

theorem getLsbD_shl : (shl x n).getLsbD i = (decide (i < 64) && !decide (i < n.val) && x.getLsbD (i - n.val)) := by
  simp [shl, BitVec.getLsbD_shiftLeft]

theorem getLsbD_lsr : (lsr x n).getLsbD i = x.getLsbD (n.val + i) := by
  simp [lsr, BitVec.getLsbD_ushiftRight]

theorem getLsbD_asr : (asr x n).getLsbD i =
    (decide (i < 64) && if n.val + i < 64 then x.getLsbD (n.val + i) else x.getLsbD 63) := by
  simp only [asr, BitVec.getLsbD_sshiftRight, BitVec.msb_eq_getLsbD_last]
  by_cases h : i < 64 <;> simp [h]

end Sys2Proof.Machine
end

