-- ==== Sys2Proof/Tests/Slice0.lean ====
section
/-! SUPPORT. Tests: the ill-formed terms that WellFormed refuses, words written out from the spec's encodings, one-step results
from spec/95_test_vectors.md, and for each statement with hypotheses a state and operands that meet them. -/

namespace Sys2Proof.Tests

open Sys2Proof Sys2Proof.Machine

/-! ### WellFormed refuses (R32, R40, R44) -/

theorem test_wf_accepts_program_line :
    Line.wf ⟨some "w1".toList, .putSigned, [.name "w0".toList, .dec 4, .dec 2, .neg 3]⟩ = true := by decide
theorem test_wf_refuses_argument_count : Line.wf ⟨none, .getUnsigned, [.dec 23, .dec 3]⟩ = false := by decide
theorem test_wf_refuses_literal_of_65_bits : Line.wf ⟨none, .fitsUnsigned, [.dec (2 ^ 64), .dec 3]⟩ = false := by decide
theorem test_wf_refuses_hexadecimal_of_65_bits :
    Line.wf ⟨none, .fitsUnsigned, [.hex (2 ^ 64), .dec 3]⟩ = false := by decide
theorem test_wf_refuses_below_least_i64 :
    Line.wf ⟨none, .fitsSigned, [.neg (2 ^ 63 + 1), .dec 64]⟩ = false ∧
    Line.wf ⟨none, .fitsSigned, [.neg (2 ^ 63), .dec 64]⟩ = true := by decide
theorem test_wf_refuses_negative_of_unsigned :
    Line.wf ⟨none, .putUnsigned, [.dec 23, .dec 4, .dec 2, .neg 3]⟩ = false := by decide
theorem test_wf_refuses_negative_word :
    Line.wf ⟨none, .putSigned, [.neg 3, .dec 4, .dec 2, .dec 3]⟩ = false := by decide
theorem test_wf_refuses_bad_binding : Line.wf ⟨some "1w".toList, .fitsUnsigned, [.dec 23, .dec 5]⟩ = false := by decide
theorem test_wf_refuses_bad_name : Line.wf ⟨none, .fitsUnsigned, [.name [], .dec 5]⟩ = false := by decide
theorem test_programWf_refuses_unbound_name :
    programWf ["w0".toList] [⟨none, .getUnsigned, [.name "w1".toList, .dec 3, .dec 2]⟩] = false ∧
    programWf ["w1".toList] [⟨none, .getUnsigned, [.name "w1".toList, .dec 3, .dec 2]⟩] = true := by decide

/-! ### Decoding, from bundles that 95_test_vectors.md prints (digit 1 the header, then word, width, lsb, value) -/

set_option exponentiation.threshold 300 in
theorem test_decode_fitsUnsigned :
    decodeTableWord 260 0x80000000000000000000000000000000500000000000000000000000000000017 =
      some (.fitsUnsigned 23 5) := by decide
set_option exponentiation.threshold 300 in
theorem test_decode_fitsSigned :
    decodeTableWord 260 0x90000000000000000000000000000000600000000000000000000000000000017 =
      some (.fitsSigned 23 6) := by decide
set_option exponentiation.threshold 300 in
theorem test_decode_getUnsigned :
    decodeTableWord 260 0xA0000000000000017000000000000000300000000000000020000000000000000 =
      some (.getUnsigned 23 3 2) := by decide
set_option exponentiation.threshold 300 in
theorem test_decode_getSigned :
    decodeTableWord 260 0xB0000000000000017000000000000000300000000000000020000000000000000 =
      some (.getSigned 23 3 2) := by decide
set_option exponentiation.threshold 300 in
theorem test_decode_putUnsigned :
    decodeTableWord 260 0xC0000000000000017000000000000000300000000000000030000000000000007 =
      some (.putUnsigned 23 3 3 7) := by decide
set_option exponentiation.threshold 300 in
theorem test_decode_putSigned :
    decodeTableWord 260 0xD000000000000001700000000000000040000000000000002FFFFFFFFFFFFFFFD =
      some (.putSigned 23 4 2 0xFFFFFFFFFFFFFFFD) := by decide
set_option exponentiation.threshold 300 in
/-- Reserved codes and the absence of a request, with every operand bit set (R37, R39). -/
theorem test_decode_reserved_and_idle :
    decodeTableWord 260 0xEFFFFFFFFFFFFFFFFFFFFFFFFFFFFFFFFFFFFFFFFFFFFFFFFFFFFFFFFFFFFFFFF = some .reserved6 ∧
    decodeTableWord 260 0xFFFFFFFFFFFFFFFFFFFFFFFFFFFFFFFFFFFFFFFFFFFFFFFFFFFFFFFFFFFFFFFFF = some .reserved7 ∧
    decodeTableWord 260 0x7FFFFFFFFFFFFFFFFFFFFFFFFFFFFFFFFFFFFFFFFFFFFFFFFFFFFFFFFFFFFFFFF = some .idle := by decide
/-- The headers of R33, as the opcode table numbers them. -/
theorem test_decode_headers :
    decodeTableWord 8 0x8 = some (.fitsUnsigned 0 0) ∧ decodeTableWord 8 0x9 = some (.fitsSigned 0 0) ∧
    decodeTableWord 8 0xA = some (.getUnsigned 0 0 0) ∧ decodeTableWord 8 0xB = some (.getSigned 0 0 0) ∧
    decodeTableWord 8 0xC = some (.putUnsigned 0 0 0 0) ∧ decodeTableWord 8 0xD = some (.putSigned 0 0 0 0) ∧
    decodeTableWord 8 0xE = some .reserved6 ∧ decodeTableWord 8 0xF = some .reserved7 ∧
    decodeTableWord 8 0x0 = some .idle ∧ decodeTableWord 8 0x7 = some .idle := by decide
/-- There is one request length (R30). -/
theorem test_decode_refuses_other_lengths :
    decodeBits 259 0 = .error (.wrongLength 259) ∧ decodeBits 260 bundleLimit = .error .tooWide ∧
    decodeTableWord 260 bundleLimit = none := ⟨rfl, rfl, rfl⟩
set_option exponentiation.threshold 300 in
/-- The worked encoding of R41. -/
theorem test_encode_worked_example :
    encode (.getUnsigned 23 3 2) = 0xA0000000000000017000000000000000300000000000000020000000000000000#260 := by decide
/-- Response bundles of 95_test_vectors.md section 1.1, and a code that is never driven. -/
theorem test_encode_response :
    encodeResponse (.ok 0x3F#64) = 0x1000000000000003F#67 ∧ encodeResponse .noFit = 0x20000000000000000#67 ∧
    decodeResponse 0x30000000000000000#67 = .ok (.fatal .descriptor) ∧
    decodeResponse 0x50000000000000000#67 = .error (.reservedStatus 5#3) := ⟨by decide, by decide, rfl, rfl⟩

/-! ### Results of one step, from 95_test_vectors.md and the examples of the rules -/

/-- The outcome that the output ports show after a step, if there is a next state. -/
def shown (o : Host.Outcome State Fault Refusal) : Option Response :=
  match o with
  | .next s => some s.output
  | .fault _ => none
  | .refused _ => none

/-- A run about to make one request. -/
def asking (r : Request) : State := { State.reset with pending := [.drive r] }

theorem test_fitsUnsigned_23 :
    shown (step (asking ⟨true, 0, 0, 5, 0, 23⟩)) = some (.ok 1) ∧
    shown (step (asking ⟨true, 0, 0, 4, 0, 23⟩)) = some (.ok 0) := by decide
theorem test_fitsUnsigned_edges :
    shown (exec (.fitsUnsigned 0 0) .reset) = some (.ok 0) ∧
    shown (exec (.fitsUnsigned (-1) 64) .reset) = some (.ok 1) ∧
    shown (exec (.fitsUnsigned 0 65) .reset) = some (.fatal .descriptor) := by decide
theorem test_fitsSigned_23 :
    shown (step (asking ⟨true, 1, 0, 6, 0, 23⟩)) = some (.ok 1) ∧
    shown (step (asking ⟨true, 1, 0, 5, 0, 23⟩)) = some (.ok 0) := by decide
theorem test_fitsSigned_width_one :
    shown (exec (.fitsSigned (-1) 1) .reset) = some (.ok 1) ∧ shown (exec (.fitsSigned 1 1) .reset) = some (.ok 0) ∧
    shown (exec (.fitsSigned 0x8000000000000000 64) .reset) = some (.ok 1) := by decide
theorem test_getUnsigned_23 :
    shown (step (asking ⟨true, 2, 23, 3, 2, 0⟩)) = some (.ok 5) ∧
    shown (step (asking ⟨true, 2, 23, 3, 3, 0⟩)) = some (.ok 2) := by decide
/-- The descriptors R76 names, the sum that would wrap (R53), and (0, 64) (R58). -/
theorem test_getUnsigned_descriptors :
    shown (exec (.getUnsigned 23 1 64) .reset) = some (.fatal .descriptor) ∧
    shown (exec (.getUnsigned 23 1 0xFFFFFFFFFFFFFFFF) .reset) = some (.fatal .descriptor) ∧
    shown (exec (.getUnsigned 23 0 64) .reset) = some (.ok 0) ∧
    shown (exec (.getUnsigned 23 64 0) .reset) = some (.ok 23) := by decide
theorem test_getSigned_23 :
    shown (step (asking ⟨true, 3, 23, 3, 2, 0⟩)) = some (.ok 0xFFFFFFFFFFFFFFFD) ∧
    shown (step (asking ⟨true, 3, 23, 3, 3, 0⟩)) = some (.ok 2) := by decide
/-- R74: the bypass at width 0, where the datapath would give -1. -/
theorem test_getSigned_width_zero :
    shown (exec (.getSigned 0x10 0 5) .reset) = some (.ok 0) ∧ asr (shl 0x10 ⟨59, by decide⟩) 64 = -1#64 := by decide
theorem test_putUnsigned_23 :
    shown (step (asking ⟨true, 4, 23, 3, 3, 7⟩)) = some (.ok 63) ∧
    shown (step (asking ⟨true, 4, 23, 3, 3, 6⟩)) = some (.ok 55) := by decide
/-- R88's pair of examples. -/
theorem test_putUnsigned_order_of_checks :
    shown (exec (.putUnsigned 0 4 61 99) .reset) = some (.fatal .descriptor) ∧
    shown (exec (.putUnsigned 0 4 60 99) .reset) = some .noFit := by decide
theorem test_putSigned_23 :
    shown (step (asking ⟨true, 5, 23, 4, 2, 0xFFFFFFFFFFFFFFFD⟩)) = some (.ok 55) ∧
    shown (step (asking ⟨true, 5, 23, 3, 3, 0⟩)) = some (.ok 7) := by decide
/-- R85's check of the truncation, and R91's example of the other predicate. -/
theorem test_putSigned_truncates :
    shown (exec (.putSigned 0 4 2 0xFFFFFFFFFFFFFFFD) .reset) = some (.ok 0x34) ∧
    shown (exec (.putSigned 0 4 2 13) .reset) = some .noFit := by decide
theorem test_reserved_and_idle :
    shown (step (asking ⟨true, 6, 1, 2, 3, 4⟩)) = some (.fatal .op) ∧
    shown (step (asking ⟨true, 7, 0, 65, 0, 0⟩)) = some (.fatal .op) ∧
    shown (step (asking ⟨false, 6, 0, 65, 0, 0⟩)) = some .idle := by decide

/-! The shifter rows of 95_test_vectors.md section 2.1 at amount 64. -/

theorem test_shifts_by_64 :
    shl 0x8000000000000001 64 = 0#64 ∧ lsr 0x8000000000000001 64 = 0#64 ∧ asr 0x8000000000000001 64 = -1#64 := by decide
theorem test_masks_and_extension :
    mask 63 = 0x7FFFFFFFFFFFFFFF#64 ∧ trunc 0xFEDCBA9876543210 12 = 0x210#64 ∧
    sext 0xFFFFFFFFFFFFFF05 4 (by decide) = 5#64 ∧ left 0xFEDCBA9876543210 8 = 0xFEDCBA9876543200#64 ∧
    right 0xFEDCBA9876543210 63 = 0x7EDCBA9876543210#64 := by decide

/-! The textual form: scenarios 12 and 7 of 95_test_vectors.md, a line of its program 1, and a line that is none. -/

theorem test_readLine_putSigned :
    readLine "put-signed(23, 4, 2, -3)".toList = .ok ⟨none, .putSigned, [.dec 23, .dec 4, .dec 2, .neg 3]⟩ := rfl
theorem test_readLine_binding :
    readLine "w3 := put-unsigned(w2, 12, 9, 0xABC)".toList =
      .ok ⟨some "w3".toList, .putUnsigned, [.name "w2".toList, .dec 12, .dec 9, .hex 0xABC]⟩ := rfl
theorem test_readLine_refuses_alias :
    readLine "get(23, 3, 2)".toList = .error (.unknownMnemonic "get".toList) := rfl
theorem test_writeResponse :
    writeResponse .getSigned (.ok 0xFFFFFFFFFFFFFFFD) = "-3".toList ∧
    writeResponse .fitsUnsigned (.ok 1) = "true".toList ∧ writeResponse .putUnsigned .noFit = "NOFIT".toList := by decide

/-! ### The hypotheses of the statements can be met -/

theorem test_hyp_ResponseBundleReadsBack :
    decodeResponse 0x1000000000000003F#67 = .ok (.ok 0x3F#64) ∧
    5 ≤ ((0x50000000000000000#67).extractLsb' 64 3).toNat ∧
    5 ≤ ((0x70000000000000000#67).extractLsb' 64 3).toNat := ⟨rfl, by decide, by decide⟩
/-- The shifter statements' bit indexes, at both ends, for amounts at both ends. -/
theorem test_hyp_shifter_bits :
    0 < 64 ∧ 63 < 64 ∧ (1 : Amount) ≠ 0 ∧ (64 : Amount) ≠ 0 ∧ (64 : Amount) = 64 ∧ (1 : Amount) = 1 := by decide
theorem test_hyp_SextReplicatesSignBit :
    sext 1 1 (by decide) = -1#64 ∧ sext 0x8000000000000000 64 (by decide) = 0x8000000000000000#64 := by decide
theorem test_hyp_TwoShiftsExtractField :
    1 ≤ (FieldRange.mk 1 63 (by decide)).width ∧ 1 ≤ (FieldRange.mk 64 0 (by decide)).width ∧
    (FieldRange.mk 0 5 (by decide)).width = 0 ∧ 1 ≤ (FieldRange.mk 0 5 (by decide)).lsb ∧
    (0x10#64).getLsbD ((FieldRange.mk 0 5 (by decide)).lsb - 1) = true ∧
    (FieldRange.mk 0 64 (by decide)).width = 0 ∧ (0x8000000000000000#64).getLsbD (64 - 1) = true := by decide
theorem test_hyp_ValidityChecksCompareNaturals :
    descOk 1 63 = true ∧ 1 ≤ valU 1 ∧ descOk 64 0 = true ∧ descOk 0 64 = true ∧
    descOk 1 64 = false ∧ descOk 64 1 = false ∧ descOk 0 65 = false ∧ widthOk 64 = true ∧ widthOk 65 = false := by decide
theorem test_hyp_FitsUnsignedMeetsContract :
    let r : Request := ⟨true, 0, 7, 64, 9, -1⟩
    r.valid = true ∧ r.op = 0#3 ∧ valU r.width = 64 ∧ 64 ≤ 64 ∧ valU 0 ≤ 64 ∧ 64 < valU 65 := by decide
theorem test_hyp_FitsSignedMeetsContract :
    let r : Request := ⟨true, 1, 7, 65, 9, -1⟩
    r.valid = true ∧ r.op = 1#3 ∧ valU r.width = 65 ∧ 64 < 65 ∧ valU 64 ≤ 64 ∧ valU 0 ≤ 64 := by decide
/-- The well-formed and the malformed descriptors at the edges (R76), for both extractions. -/
theorem test_hyp_GetMeetsContract :
    let r : Request := ⟨true, 2, 23, 1, 63, 9⟩
    let q : Request := ⟨true, 3, 23, 64, 0, 9⟩
    (r.valid = true ∧ r.op = 2#3 ∧ valU r.width = 1 ∧ valU r.lsb = 63 ∧ 1 ≤ 64 ∧ 1 + 63 ≤ 64) ∧
    (q.valid = true ∧ q.op = 3#3 ∧ valU q.width = 64 ∧ valU q.lsb = 0 ∧ 64 + 0 ≤ 64 ∧ 1 ≤ 64) ∧
    (valU 0 = 0 ∧ valU 64 = 64 ∧ 0 ≤ 64 ∧ 0 + 64 ≤ 64) ∧
    ¬(65 ≤ 64 ∧ 65 + 0 ≤ 64) ∧ ¬(64 ≤ 64 ∧ 64 + 1 ≤ 64) ∧ ¬(1 ≤ 64 ∧ 1 + 64 ≤ 64) := by decide
theorem test_hyp_PutUnsignedMeetsContract :
    let r : Request := ⟨true, 4, 23, 4, 60, 15⟩
    (r.valid = true ∧ r.op = 4#3 ∧ valU r.width = 4 ∧ valU r.lsb = 60) ∧
    (4 ≤ 64 ∧ 4 + 60 ≤ 64) ∧ (4 ≠ 0 ∧ valU 15 ≤ 2 ^ 4 - 1) ∧ valU 16 > 2 ^ 4 - 1 ∧
    (valU 0 = 0 ∧ 0 + 64 ≤ 64) ∧ ¬(4 ≤ 64 ∧ 4 + 61 ≤ 64) := by decide
theorem test_hyp_PutSignedMeetsContract :
    let r : Request := ⟨true, 5, 23, 4, 60, 7⟩
    (r.valid = true ∧ r.op = 5#3 ∧ valU r.width = 4 ∧ valU r.lsb = 60) ∧
    (4 ≠ 0 ∧ -(2 : Int) ^ (4 - 1) ≤ valS 7 ∧ valS 7 ≤ (2 : Int) ^ (4 - 1) - 1) ∧
    (-(2 : Int) ^ (4 - 1) ≤ valS (-8) ∧ valS (-8) ≤ (2 : Int) ^ (4 - 1) - 1) ∧
    valS (-9) < -(2 : Int) ^ (4 - 1) ∧ valS 8 > (2 : Int) ^ (4 - 1) - 1 ∧ (valU 0 = 0 ∧ 0 ≤ 64 ∧ 0 + 64 ≤ 64) ∧
    ¬(4 ≤ 64 ∧ 4 + 61 ≤ 64) := by decide
theorem test_hyp_MalformedDescriptorsEndFatal :
    widthOk 65 = false ∧ descOk 65 0 = false ∧ descOk 64 1 = false ∧ descOk 1 0xFFFFFFFFFFFFFFFF = false := by decide
theorem test_hyp_FitDatapathsDecideRanges :
    (1 : Amount) ≠ 0 ∧ (64 : Amount) ≠ 0 ∧ lsr (-1) 64 = 0#64 ∧ sext (-1) 1 (by decide) = -1#64 := by decide
theorem test_hyp_FitPredicatesAtEdgeWidths : 64 < valU 65 ∧ 64 < valU 0x100000000 := by decide
theorem test_hyp_FitBoundariesAreExact : (1 ≤ 1 ∧ 1 ≤ 63) ∧ (1 ≤ 63 ∧ 63 ≤ 63) ∧ 1 ≤ 64 ∧ 64 ≤ 64 := by decide
theorem test_hyp_FitPredicatesAreRelated :
    (valU 5 ≤ valU 6 ∧ valU 6 ≤ 64 ∧ fitsUnsigned 23 5 = .ok 1 ∧ fitsSigned 23 6 = .ok 1 ∧
      (23#64).getLsbD 63 = false) ∧
    (valU 64 ≤ valU 64 ∧ (-1#64).getLsbD 63 = true ∧ fitsUnsigned (-1) 64 = .ok 1) := by decide
theorem test_hyp_ExtractionsAreRelated :
    (FieldRange.mk 1 63 (by decide)).widthAmount ≠ 0 ∧ (FieldRange.mk 64 0 (by decide)).widthAmount ≠ 0 ∧ valU 0 = 0 ∧
    getUnsigned 23 1 64 = .fatal .descriptor := by decide
theorem test_hyp_ExtractionAtEdgeWidths :
    valU 0 ≤ 64 ∧ valU 64 ≤ 64 ∧ descOk 64 0 = true ∧ valU 64 = 64 := by decide
theorem test_hyp_ExtractionReadsOnlyTheField :
    (∀ i, valU 2 ≤ i → i < valU 2 + valU 3 → (0x17#64).getLsbD i = (0xF4#64).getLsbD i) ∧
    getUnsigned 0x17 3 2 = .ok 5 ∧ getSigned 0x17 3 2 = .ok (-3) ∧ 1 ≤ valU 3 := by
  refine ⟨fun i h1 h2 => ?_, by decide, by decide, by decide⟩
  have h1 : 2 ≤ i := h1
  have h2 : i < 5 := h2
  interval_cases i <;> rfl
theorem test_hyp_InsertionAtEdges :
    valU 64 ≤ 64 ∧ (FieldRange.mk 64 0 (by decide)).lsb = 0 ∧
    (FieldRange.mk 4 60 (by decide)).lsb + (FieldRange.mk 4 60 (by decide)).width = 64 := by decide
theorem test_hyp_NegativePatternIsTruncation :
    (fitsSignedBit (-8) 4 = true ∧ (-8#64).getLsbD 63 = true) ∧ (fitsSignedBit 7 4 = true ∧ (7#64).getLsbD 63 = false) ∧
    fitsSignedBit (-1) 1 = true ∧ fitsSignedBit 0x8000000000000000 64 = true := by decide
theorem test_hyp_DescriptorCheckComesFirst :
    descOk 4 61 = false ∧ putUnsigned 0 4 60 99 = .noFit ∧ putSigned 0 4 60 8 = .noFit := by decide
theorem test_hyp_PutThenGetReturnsValue :
    (descOk 1 63 = true ∧ 1 ≤ valU 1 ∧ fitsUnsigned 1 1 = .ok 1 ∧ fitsSigned (-1) 1 = .ok 1) ∧
    (descOk 64 0 = true ∧ fitsUnsigned (-1) 64 = .ok 1 ∧ fitsSigned 0x8000000000000000 64 = .ok 1) := by decide
theorem test_hyp_MixedRoundTripsConvert :
    (4 : Amount) ≠ 0 ∧ (4 : Amount).val = valU 4 ∧ putSigned 23 4 2 (-3) = .ok 55 ∧ putUnsigned 23 4 2 13 = .ok 55 := by
  decide
theorem test_hyp_InsertionKeepsOutsideBits :
    putUnsigned 23 3 3 7 = .ok 63 ∧ putSigned 23 4 2 (-3) = .ok 55 ∧
    (0 < valU 3 ∧ valU 3 + valU 3 ≤ 6) ∧ valU 0 + valU 3 ≤ valU 3 ∧ valU 3 + valU 3 ≤ valU 6 := by decide
theorem test_hyp_InsertionsDifferInPredicateOnly :
    (putUnsigned 23 3 3 1 = .ok 15 ∧ putSigned 23 3 3 1 = .ok 15) ∧ (descOk 63 1 = true ∧ 1 ≤ valU 63 ∧ valU 63 ≤ 63) ∧
    descOk 1 63 = true ∧ descOk 64 0 = true ∧ valU 64 = 64 := by decide
/-- Overwriting, a neighbouring field on each side, and putting back what was read. -/
theorem test_hyp_InsertionsObeyFieldLaws :
    putUnsigned 23 3 3 7 = .ok 63 ∧ putSigned 63 3 3 0 = .ok 7 ∧ putUnsigned 23 3 6 5 = .ok 343 ∧
    putSigned 23 3 0 (-1) = .ok 23 ∧ valU 3 + valU 3 ≤ valU 6 ∧ valU 0 + valU 3 ≤ valU 3 ∧ 1 ≤ valU 3 ∧
    getUnsigned 23 3 2 = .ok 5 ∧ getSigned 23 3 2 = .ok (-3) := by decide
theorem test_hyp_EveryRequestIsAnsweredByF :
    fatalCause (blockF ⟨true, 4, 23, 3, 3, 9⟩) = none ∧ fatalCause (blockF ⟨false, 7, 0, 65, 0, 0⟩) = none ∧
    blockF ⟨true, 2, 23, 65, 0, 0⟩ = .fatal .descriptor ∧ blockF ⟨true, 6, 0, 0, 0, 0⟩ = .fatal .op := by decide
/-- The priorities of R101 where they meet: a reserved op code with a bad width, a bad descriptor with a bad value. -/
theorem test_hyp_OutcomesFollowPriority :
    blockF ⟨true, 7, 0, 65, 0, 0⟩ = .fatal .op ∧ blockF ⟨true, 4, 0, 4, 61, 99⟩ = .fatal .descriptor ∧
    blockF ⟨true, 0, 0, 4, 61, 9⟩ = .ok 1 ∧ blockF ⟨true, 5, 0, 4, 60, 8⟩ = .noFit := by decide
theorem test_hyp_ResponseDependsOnRequestAlone :
    ∃ s s' t t' : State, s ≠ s' ∧ exec (.getSigned 23 3 2) s = .next t ∧ exec (.getSigned 23 3 2) s' = .next t' :=
  ⟨.reset, { State.reset with fault := some .op, output := .noFit }, _, _, by decide, rfl, rfl⟩
theorem test_hyp_ExecChangesOutputAndRecordOnly :
    ∃ s s' t t' : State, exec .reserved6 s = .next t ∧ s.fault = none ∧ t.output = .fatal .op ∧
      exec (.putUnsigned 23 3 3 9) s' = .next t' ∧ s'.fault = some .descriptor ∧ fatalCause t'.output = none :=
  ⟨.reset, { State.reset with fault := some .descriptor }, _, _, rfl, rfl, rfl, rfl, rfl, rfl⟩
theorem test_hyp_ResetShowsIdle :
    let s : State := { State.reset with inputs := ⟨true, 6, 0, 0, 0, 0⟩, responses := [.noFit] }
    s.fault = none ∧ s.pending = [] := by decide
theorem test_hyp_StepRunsDecodedInstruction :
    (asking ⟨true, 2, 23, 3, 2, 0⟩).fault = none ∧
    (asking ⟨true, 2, 23, 3, 2, 0⟩).pending = .drive ⟨true, 2, 23, 3, 2, 0⟩ :: [] ∧
    tableRequest 8 0xA = some ⟨true, 2, 0, 0, 0, 0⟩ ∧ tableRequest 8 0 = some ⟨false, 0, 0, 0, 0, 0⟩ := by decide

/-- A run with two bound names, `w` to 23 and `n` to a NOFIT, and some lines to perform. -/
def naming (ls : List Line) : State :=
  { State.reset with names := [("w".toList, .ok 23), ("n".toList, .noFit)] }.withProgram ls

/-- `x = put-unsigned(w, 3, 3, 7)`. -/
def putLine : Line := ⟨some "x".toList, .putUnsigned, [.name "w".toList, .dec 3, .dec 3, .dec 7]⟩

theorem test_hyp_StepRunsLineAndBinds :
    (naming [putLine]).fault = none ∧ (naming [putLine]).pending = .line putLine :: [] ∧
    lineRequest (naming [putLine]).names putLine = .ok ⟨true, 4, 23, 3, 3, 7⟩ ∧ putLine.bind = some "x".toList ∧
    putLine.bind ≠ some "w".toList := ⟨rfl, rfl, rfl, rfl, by decide⟩
theorem test_line_binds_result :
    (match step (naming [putLine]) with | .next t => lookupName t.names "x".toList | _ => none) = some (.ok 63) := by decide
theorem test_hyp_LineEncodesToOneRequest :
    putLine.wf = true ∧
    ∀ x, Arg.name x ∈ putLine.args → ∃ v, lookupName (naming [putLine]).names x = some (.ok v) := by
  refine ⟨by decide, fun x hx => ?_⟩
  have hx : x = "w".toList := by simpa [putLine] using hx
  exact ⟨23, by rw [hx]; decide⟩
/-- `v = get-unsigned(23, 0x3, w)`, every kind of non-negative argument, and the negative and the greatest values of put-*. -/
theorem test_hyp_LineOperandsInOrder :
    let env := (naming []).names
    (Denotes env (.dec 23) 23 ∧ Denotes env (.hex 3) 3 ∧ Denotes env (.name "w".toList) 23 ∧
      Denotes env (.neg (2 ^ 63)) 0x8000000000000000 ∧ Denotes env (.dec (2 ^ 64 - 1)) (-1)) ∧
    (nameWf "v".toList = true ∧ (Arg.dec 23).wf = true ∧ (Arg.hex 3).wf = true ∧ (Arg.name "w".toList).wf = true ∧
      (Arg.neg (2 ^ 63)).wf = true ∧ (Arg.dec (2 ^ 64 - 1)).wf = true) ∧
    ((Arg.hex 3).isNeg = false ∧ (Arg.name "w".toList).isNeg = false ∧ (Arg.neg (2 ^ 63)).isNeg = true) ∧
    (Operation.format .fitsSigned = .f ∧ Operation.format .getUnsigned = .g ∧ Operation.format .putSigned = .p) ∧
    (¬(Operation.putSigned = .fitsSigned ∧ ([] : List Arg).length = 0) ∧
      ¬(Operation.putSigned = .putSigned ∧ ([] : List Arg).length = 3)) ∧ 2 ^ 63 < 2 ^ 63 + 1 ∧ 2 ^ 64 ≤ 2 ^ 64 :=
  ⟨⟨.dec 23, .hex 3, .name _ 23 (by decide), .neg (2 ^ 63), .dec (2 ^ 64 - 1)⟩, by decide, by decide, by decide,
    by decide, by decide⟩
theorem test_line_operands :
    lineRequest (naming []).names ⟨some "v".toList, .getUnsigned, [.dec 23, .hex 3, .name "w".toList]⟩ =
      .ok ⟨true, 2, 23, 3, 23, 0⟩ ∧
    lineRequest [] ⟨none, .putUnsigned, [.dec 0, .dec 64, .dec 0, .dec (2 ^ 64 - 1)]⟩ =
      .ok ⟨true, 4, 0, 64, 0, 0xFFFFFFFFFFFFFFFF⟩ := ⟨rfl, rfl⟩
theorem test_hyp_CallerErrorsAreRefused :
    let l : Line := ⟨none, .getUnsigned, [.name "n".toList, .dec 3, .dec 3]⟩
    let k : Line := ⟨none, .getUnsigned, [.name "z".toList, .dec 3, .dec 3]⟩
    (l.wf = true ∧ lookupName (naming [l]).names "n".toList = some .noFit ∧ (naming [l]).fault = none) ∧
    (k.wf = true ∧ lookupName (naming [k]).names "z".toList = none) ∧
    (State.mk .noRequest .idle [.indefinite] [] [] none).pending = .indefinite :: [] := by decide
theorem test_caller_errors :
    step (naming [⟨none, .getUnsigned, [.name "n".toList, .dec 3, .dec 3]⟩]) = .refused (.nonOkResult "n".toList) ∧
    step (naming [⟨none, .getUnsigned, [.name "z".toList, .dec 3, .dec 3]⟩]) = .refused (.unboundName "z".toList) ∧
    step (naming [⟨none, .getUnsigned, [.dec 3, .dec 3]⟩]) = .refused .illFormedLine := ⟨rfl, rfl, rfl⟩
theorem test_hyp_FaultedRunPerformsNothing :
    ∃ s t : State, s.fault = some .descriptor ∧ step s = .fault (.runFaulted .descriptor) ∧
      step (asking ⟨true, 6, 0, 0, 0, 0⟩) = .next t :=
  ⟨{ State.reset with fault := some .descriptor }, _, rfl, rfl, rfl⟩
theorem test_hyp_step_invariants :
    ∃ t, State.Combinational (asking ⟨true, 6, 0, 0, 0, 0⟩) ∧ State.FaultHonest (asking ⟨true, 6, 0, 0, 0, 0⟩) ∧
      step (asking ⟨true, 6, 0, 0, 0, 0⟩) = .next t ∧ t.fault = some .op :=
  ⟨_, rfl, .inl ⟨rfl, by simp [asking, State.reset]⟩, rfl, rfl⟩
/-- A run that ends final (R124): a get, a NOFIT and an IDLE are its whole list. -/
theorem test_hyp_RunIsPointwiseImageUnderF :
    let rs : List Request := [⟨true, 2, 23, 3, 2, 0⟩, ⟨true, 4, 23, 3, 3, 9⟩, ⟨false, 0, 0, 0, 0, 0⟩]
    let s : State := { State.reset with pending := rs.map .drive }
    s.fault = none ∧ s.pending = rs.map .drive ∧ ∀ r ∈ rs, fatalCause (blockF r) = none := by decide
/-- A run that ends faulted (R124): a malformed descriptor after three requests, with requests after it. -/
theorem test_hyp_RunStopsAtFirstFatalOutcome :
    let rs : List Request := [⟨true, 2, 23, 3, 2, 0⟩, ⟨true, 4, 23, 3, 3, 9⟩, ⟨false, 0, 0, 0, 0, 0⟩]
    let bad : Request := ⟨true, 2, 0xFEDCBA9876543210, 8, 57, 0⟩
    let s : State := { State.reset with pending := (rs ++ bad :: rs).map .drive }
    s.fault = none ∧ s.pending = (rs ++ bad :: rs).map .drive ∧ (∀ r ∈ rs, fatalCause (blockF r) = none) ∧
      blockF bad = .fatal .descriptor := by decide
theorem test_hyp_WrittenNumbersReadBack :
    2 ^ 64 - 1 < 2 ^ 64 ∧ writeArg (.dec (2 ^ 64 - 1)) = "18446744073709551615".toList ∧
    writeArg (.hex 0xABC) = "0xABC".toList := by decide

end Sys2Proof.Tests
end

section
/-! PROOFS. Which instruction each row of the op code map decodes to, and that the ports a row does not name have no effect
(10_state.md R16; 30_encoding.md R33, R37, R39). -/

namespace Sys2Proof.Machine

/-! ### The instruction of each row, with the operands that row reads (R33, R42) -/

section
variable (op : BitVec 3) (word width lsb value : Word)

@[simp] theorem decodeRequest_fitsUnsigned :
    decodeRequest ⟨true, 0#3, word, width, lsb, value⟩ = .fitsUnsigned value width := rfl
@[simp] theorem decodeRequest_fitsSigned :
    decodeRequest ⟨true, 1#3, word, width, lsb, value⟩ = .fitsSigned value width := rfl
@[simp] theorem decodeRequest_getUnsigned :
    decodeRequest ⟨true, 2#3, word, width, lsb, value⟩ = .getUnsigned word width lsb := rfl
@[simp] theorem decodeRequest_getSigned :
    decodeRequest ⟨true, 3#3, word, width, lsb, value⟩ = .getSigned word width lsb := rfl
@[simp] theorem decodeRequest_putUnsigned :
    decodeRequest ⟨true, 4#3, word, width, lsb, value⟩ = .putUnsigned word width lsb value := rfl
@[simp] theorem decodeRequest_putSigned :
    decodeRequest ⟨true, 5#3, word, width, lsb, value⟩ = .putSigned word width lsb value := rfl
@[simp] theorem decodeRequest_reserved6 :
    decodeRequest ⟨true, 6#3, word, width, lsb, value⟩ = .reserved6 := rfl
@[simp] theorem decodeRequest_reserved7 :
    decodeRequest ⟨true, 7#3, word, width, lsb, value⟩ = .reserved7 := rfl
@[simp] theorem decodeRequest_not_valid :
    decodeRequest ⟨false, op, word, width, lsb, value⟩ = .idle := rfl

end

/-- Settles O5: a port that a row does not name is no operand of the instruction it decodes to, so two requests that differ
in such ports only decode to the same instruction. -/
theorem unnamedPortsHaveNoEffect : Obligations.UnnamedPortsHaveNoEffect := by
  intro s op word width lsb value word' width' lsb' value'
  refine ⟨?fitsUnsigned, ?fitsSigned, ?getUnsigned, ?getSigned, decodeRequest_putUnsigned .., decodeRequest_putSigned ..,
    ?reserved6, ?reserved7, ?idle⟩
  case fitsUnsigned => simp only [decodeRequest_fitsUnsigned]
  case fitsSigned => simp only [decodeRequest_fitsSigned]
  case getUnsigned => simp only [decodeRequest_getUnsigned]
  case getSigned => simp only [decodeRequest_getSigned]
  case reserved6 => simp only [decodeRequest_reserved6]
  case reserved7 => simp only [decodeRequest_reserved7]
  case idle => simp only [decodeRequest_not_valid]

end Sys2Proof.Machine
end

section
/-! PROOFS. The fields of the response bundle, the codes of the five statuses, and the result off OK (30_encoding.md R31,
R36). -/

namespace Sys2Proof.Machine

/-- Every status that is driven has a code below 5 (R36). -/
theorem status_code_lt_five : ∀ s : Status, s.code.toNat < 5
  | .idle | .ok | .noFit | .fatalDesc | .fatalOp => by decide

/-- The `status` field of the response bundle, bits 66:64 (R31). -/
@[simp] theorem encodeResponse_status (o : Response) : (encodeResponse o).extractLsb' 64 3 = o.status.code :=
  BitVec.extractLsb'_append_eq_left

/-- The `result` field of the response bundle, bits 63:0 (R31). -/
@[simp] theorem encodeResponse_result (o : Response) : (encodeResponse o).extractLsb' 0 64 = o.result :=
  BitVec.extractLsb'_append_eq_right

/-- Settles O6: the two fields are the two halves of the append, whatever the outcome; the codes and the zero results are
the rows of R36's table. -/
theorem responseShowsStatusAndResult : Obligations.ResponseShowsStatusAndResult := by
  refine ⟨fun o => ?bundle, fun r => ?ok, ?idle, ?noFit, ?fatalDescriptor, ?fatalOp, ?predicate⟩
  case bundle => exact ⟨encodeResponse_status o, encodeResponse_result o, status_code_lt_five o.status⟩
  case ok | idle | noFit | fatalDescriptor | fatalOp | predicate => exact ⟨rfl, rfl⟩

end Sys2Proof.Machine
end

section
/-! PROOFS. The barrel shifter's left shift, logical right shift and sign extension, each as a number, bit by bit and at its
corners (40_barrel_shifter.md R45, R46, R50). -/

namespace Sys2Proof.Machine

/-! ### The zero-filling shifts (R45, R46) -/

section
variable (x : Word) (n : Amount)

theorem toNat_shl : (shl x n).toNat = x.toNat * 2 ^ n.val % 2 ^ 64 := by
  rw [shl, BitVec.toNat_shiftLeft, Nat.shiftLeft_eq]

theorem toNat_lsr : (lsr x n).toNat = x.toNat / 2 ^ n.val := by
  rw [lsr, BitVec.toNat_ushiftRight, Nat.shiftRight_eq_div_pow]

@[simp] theorem shl_zero : shl x 0 = x := BitVec.shiftLeft_zero x
@[simp] theorem lsr_zero : lsr x 0 = x := BitVec.ushiftRight_zero x

/-- An amount of 64 is not reduced: every bit is shifted out (R48). -/
@[simp] theorem shl_sixtyFour : shl x 64 = 0#64 := BitVec.shiftLeft_eq_zero (Nat.le_refl 64)
@[simp] theorem lsr_sixtyFour : lsr x 64 = 0#64 := BitVec.ushiftRight_eq_zero (Nat.le_refl 64)

end

/-- Settles O8: bit `i` comes from place `i - n`, and there is none below place `n`. -/
theorem shlFillsWithZeros : Obligations.ShlFillsWithZeros := by
  intro x n
  refine ⟨toNat_shl x n, fun i hi => ?bit, shl_zero x, shl_sixtyFour x⟩
  case bit =>
    rw [getLsbD_shl]
    split
    next h => simp [hi, Nat.not_lt.mpr h]
    next h => simp [Nat.not_le.mp h]

/-- Settles O9: bit `i` comes from place `i + n`, and a Word has no bit above place 63. -/
theorem lsrFillsWithZeros : Obligations.LsrFillsWithZeros := by
  intro x n
  refine ⟨toNat_lsr x n, fun i _ => ?bit, lsr_zero x, lsr_sixtyFour x⟩
  case bit =>
    rw [getLsbD_lsr, Nat.add_comm]
    split
    next => rfl
    next h => exact BitVec.getLsbD_of_ge x _ (by omega)

/-! ### Sign extension (R50) -/

/-- A width that is not 0 has a sign bit, at place `w - 1`. -/
theorem amount_pos_of_ne_zero {w : Amount} (h : w ≠ 0) : 1 ≤ w.val :=
  Nat.pos_of_ne_zero fun h0 => h (Fin.ext h0)

section
variable (x : Word) {w : Amount} (h : w ≠ 0)

/-- The left shift by `64 - w` brings the low `w` bits to the top. -/
theorem getLsbD_shl_complement {i : Nat} (hi : i < w.val) :
    (shl x (complement w)).getLsbD (64 - w.val + i) = x.getLsbD i := by
  have hplace : 64 - w.val + i < 64 := by omega
  simp only [getLsbD_shl, complement_val, Nat.add_sub_cancel_left, hplace, Nat.not_lt.mpr (Nat.le_add_right _ _),
    decide_true, decide_false, Bool.not_false, Bool.true_and]

theorem getLsbD_sext {i : Nat} (hi : i < 64) :
    (sext x w h).getLsbD i = if i < w.val then x.getLsbD i else x.getLsbD (w.val - 1) := by
  have hpos := amount_pos_of_ne_zero h
  have hsign : 64 - w.val + (w.val - 1) = 63 := by omega
  have hsource : 64 - w.val + i < 64 ↔ i < w.val := by omega
  rw [sext, getLsbD_asr, decide_eq_true hi, Bool.true_and, complement_val, ← hsign]
  simp only [hsource]
  split
  next hiw => exact getLsbD_shl_complement x hiw
  next => exact getLsbD_shl_complement x (Nat.sub_one_lt_of_lt hpos)

/-- The shift form is Lean's sign extension of the low `w` bits. -/
theorem sext_eq_signExtend : sext x w h = (x.setWidth w.val).signExtend 64 := by
  have hpos := amount_pos_of_ne_zero h
  apply BitVec.eq_of_getLsbD_eq
  intro i hi
  rw [getLsbD_sext x h hi, BitVec.getLsbD_signExtend, BitVec.msb_eq_getLsbD_last, decide_eq_true hi, Bool.true_and]
  simp only [BitVec.getLsbD_setWidth]
  split
  next hiw => rw [decide_eq_true hiw, Bool.true_and]
  next => rw [decide_eq_true (Nat.sub_one_lt_of_lt hpos), Bool.true_and]

/-- The number is the two's-complement reading of the low `w` bits. -/
theorem valS_sext : valS (sext x w h) =
    if valU x % 2 ^ w.val < 2 ^ (w.val - 1) then ((valU x % 2 ^ w.val : Nat) : Int)
      else ((valU x % 2 ^ w.val : Nat) : Int) - 2 ^ w.val := by
  have hle : w.val ≤ 64 := Nat.le_of_lt_succ w.isLt
  have hpow : 2 ^ w.val = 2 * 2 ^ (w.val - 1) := by
    rw [← Nat.pow_succ', Nat.succ_eq_add_one, Nat.sub_add_cancel (amount_pos_of_ne_zero h)]
  rw [valS_eq_toInt, sext_eq_signExtend, BitVec.toInt_signExtend_of_le hle, BitVec.toInt_eq_toNat_cond,
    BitVec.toNat_setWidth]
  have hhalf (u : Nat) : 2 * u < 2 ^ w.val ↔ u < 2 ^ (w.val - 1) := by omega
  simp only [hhalf, Nat.cast_pow, Nat.cast_ofNat]

theorem sext_sixtyFour (h : (64 : Amount) ≠ 0) : sext x 64 h = x := by
  apply BitVec.eq_of_getLsbD_eq
  intro i hi
  rw [getLsbD_sext x h hi]
  exact if_pos hi

theorem sext_one (h : (1 : Amount) ≠ 0) : sext x 1 h = if x.getLsbD 0 then BitVec.allOnes 64 else 0#64 := by
  apply BitVec.eq_of_getLsbD_eq
  intro i hi
  have hbit : (sext x 1 h).getLsbD i = x.getLsbD 0 := by
    rw [getLsbD_sext x h hi]
    split
    next hi1 => rw [Nat.lt_one_iff.mp hi1]
    next => rfl
  rw [hbit]
  split
  next h0 => rw [h0, BitVec.getLsbD_allOnes, decide_eq_true hi]
  next h0 => rw [Bool.eq_false_of_not_eq_true h0, BitVec.getLsbD_zero]

end

/-- Settles O13: the left shift puts bit `w - 1` in the place of the sign, and the right shift copies it down to place `w`;
the number is then the two's-complement reading of the low `w` bits. -/
theorem sextReplicatesSignBit : Obligations.SextReplicatesSignBit := by
  intro x w h
  refine ⟨fun i hi => getLsbD_sext x h hi, valS_sext x h, rfl, ?whole, ?single⟩
  case whole => rintro rfl; exact sext_sixtyFour x h
  case single => rintro rfl; exact sext_one x h

end Sys2Proof.Machine
end

section
/-! PROOFS. A get or put of an empty field, and what `LSB64_POLICY` decides (40_barrel_shifter.md R58). -/

namespace Sys2Proof.Machine

section
variable {width lsb : Word} {f : FieldRange} (word value : Word)

/-! ### The four field operations where the descriptor passes the check -/

theorem getUnsigned_of_field (h : descCheck width lsb = some f) :
    getUnsigned word width lsb = .ok (extractUnsigned word f) := by
  rw [getUnsigned, h]

theorem getSigned_of_field (h : descCheck width lsb = some f) :
    getSigned word width lsb = .ok (extractSigned word f) := by
  rw [getSigned, h]

theorem putUnsigned_of_field (h : descCheck width lsb = some f) :
    putUnsigned word width lsb value =
      if fitsUnsignedBit value f.widthAmount then .ok (mergeField word f value) else .noFit := by
  rw [putUnsigned, h]

theorem putSigned_of_field (h : descCheck width lsb = some f) :
    putSigned word width lsb value =
      if fitsSignedBit value f.widthAmount then .ok (mergeField word f (trunc value f.widthAmount)) else .noFit := by
  rw [putSigned, h]

/-! ### The empty field (R64, R74) -/

@[simp] theorem fitsUnsignedBit_zero : fitsUnsignedBit value 0 = false := rfl
@[simp] theorem fitsSignedBit_zero : fitsSignedBit value 0 = false := rfl

theorem descOk_width_zero : descOk 0#64 lsb = true ↔ lsb.toNat ≤ 64 := by
  simp [descOk_iff]

/-- At every place a Word has, the top end 64 included, there is an empty field. -/
theorem exists_empty_field (h : lsb.toNat ≤ 64) :
    ∃ f, descCheck 0#64 lsb = some f ∧ f.width = 0 ∧ f.widthAmount = 0 := by
  obtain ⟨f, hf, hw, -⟩ := exists_field (descOk_width_zero.mpr h)
  exact ⟨f, hf, hw, Fin.ext hw⟩

theorem get_of_width_zero (h : lsb.toNat ≤ 64) :
    getUnsigned word 0#64 lsb = .ok 0#64 ∧ getSigned word 0#64 lsb = .ok 0#64 := by
  obtain ⟨f, hf, hw, -⟩ := exists_empty_field h
  rw [getUnsigned_of_field word hf, getSigned_of_field word hf, extractUnsigned, extractSigned, if_pos hw, if_pos hw]
  exact ⟨rfl, rfl⟩

/-- No value fits a width of 0, so nothing is inserted. -/
theorem put_of_width_zero (h : lsb.toNat ≤ 64) :
    putUnsigned word 0#64 lsb value = .noFit ∧ putSigned word 0#64 lsb value = .noFit := by
  obtain ⟨f, hf, -, hw⟩ := exists_empty_field h
  simp [putUnsigned_of_field word value hf, putSigned_of_field word value hf, hw]

end

/-- The two policies differ on the descriptor (0, 64) alone. -/
theorem descOkUnder_refuse (width lsb : Word) : descOkUnder .refuse width lsb =
    (descOkUnder .accept width lsb && !(decide (width = 0#64) && decide (lsb = 64#64))) := by
  have hwidth : valU width = 0 ↔ width = 0#64 := (BitVec.toNat_eq (y := 0#64)).symm
  have hlsb : valU lsb = 64 ↔ lsb = 64#64 := (BitVec.toNat_eq (y := 64#64)).symm
  simp only [descOkUnder, hwidth, hlsb, Bool.and_true]

/-- Settles O18: (0, 64) is the last of the empty fields, all of which are read as 0 and refuse every value. -/
theorem policyTurnsOnZeroWidthAt64 : Obligations.PolicyTurnsOnZeroWidthAt64 := by
  have htop : (64#64).toNat ≤ 64 := Nat.le_refl 64
  refine ⟨descOk_width_zero.mpr htop, fun word value => ?answers, fun _ => descOk_width_zero, descOkUnder_refuse⟩
  case answers =>
    obtain ⟨hgetU, hgetS⟩ := get_of_width_zero word htop
    obtain ⟨hputU, hputS⟩ := put_of_width_zero word value htop
    exact ⟨hgetU, hgetS, hputU, hputS⟩

end Sys2Proof.Machine
end

section
/-! PROOFS. Which of the five outcomes a request has, by the first condition that applies (60_exceptions.md R101, R112). -/

namespace Sys2Proof.Machine

section
variable {width lsb : Word} {w : Amount} {f : FieldRange} (word value : Word)

/-! ### The six operations where the check fails (R97), and the two predicates where it passes -/

theorem fitsUnsigned_of_malformed (h : widthOk width = false) : fitsUnsigned value width = .fatal .descriptor := by
  rw [fitsUnsigned, widthCheck_eq_none.mpr h]

theorem fitsSigned_of_malformed (h : widthOk width = false) : fitsSigned value width = .fatal .descriptor := by
  rw [fitsSigned, widthCheck_eq_none.mpr h]

theorem getUnsigned_of_malformed (h : descOk width lsb = false) : getUnsigned word width lsb = .fatal .descriptor := by
  rw [getUnsigned, descCheck_eq_none.mpr h]

theorem getSigned_of_malformed (h : descOk width lsb = false) : getSigned word width lsb = .fatal .descriptor := by
  rw [getSigned, descCheck_eq_none.mpr h]

theorem putUnsigned_of_malformed (h : descOk width lsb = false) :
    putUnsigned word width lsb value = .fatal .descriptor := by
  rw [putUnsigned, descCheck_eq_none.mpr h]

theorem putSigned_of_malformed (h : descOk width lsb = false) :
    putSigned word width lsb value = .fatal .descriptor := by
  rw [putSigned, descCheck_eq_none.mpr h]

theorem fitsUnsigned_of_width (h : widthCheck width = some w) :
    fitsUnsigned value width = .ok (boolResult (fitsUnsignedBit value w)) := by
  rw [fitsUnsigned, h]

theorem fitsSigned_of_width (h : widthCheck width = some w) :
    fitsSigned value width = .ok (boolResult (fitsSignedBit value w)) := by
  rw [fitsSigned, h]

/-! ### The insertions ask the predicate of their own signedness (R93) -/

/-- A field's width passes the predicates' own, weaker check. -/
theorem widthCheck_of_field (h : descCheck width lsb = some f) : widthCheck width = some f.widthAmount :=
  widthCheck_eq_some.mpr (descCheck_eq_some.mp h).1

theorem putUnsigned_follows_fitsUnsigned (h : descOk width lsb = true) :
    fitsUnsigned value width = .ok 0#64 ∧ putUnsigned word width lsb value = .noFit ∨
    fitsUnsigned value width = .ok 1#64 ∧ ∃ x, putUnsigned word width lsb value = .ok x := by
  obtain ⟨f, hf, -⟩ := exists_field h
  rw [fitsUnsigned_of_width value (widthCheck_of_field hf), putUnsigned_of_field word value hf]
  cases fitsUnsignedBit value f.widthAmount with
  | false => exact .inl ⟨rfl, rfl⟩
  | true => exact .inr ⟨rfl, _, rfl⟩

theorem putSigned_follows_fitsSigned (h : descOk width lsb = true) :
    fitsSigned value width = .ok 0#64 ∧ putSigned word width lsb value = .noFit ∨
    fitsSigned value width = .ok 1#64 ∧ ∃ x, putSigned word width lsb value = .ok x := by
  obtain ⟨f, hf, -⟩ := exists_field h
  rw [fitsSigned_of_width value (widthCheck_of_field hf), putSigned_of_field word value hf]
  cases fitsSignedBit value f.widthAmount with
  | false => exact .inl ⟨rfl, rfl⟩
  | true => exact .inr ⟨rfl, _, rfl⟩

end

/-! ### The rows of F (R42) -/

section
variable {r : Request}

theorem blockF_of_not_valid (hv : r.valid = false) : blockF r = .idle := if_pos hv

variable (hv : r.valid = true)
include hv

theorem blockF_of_fitsUnsigned (hop : r.op = 0#3) : blockF r = fitsUnsigned r.value r.width := by
  simp [blockF, hv, hop]
theorem blockF_of_fitsSigned (hop : r.op = 1#3) : blockF r = fitsSigned r.value r.width := by
  simp [blockF, hv, hop]
theorem blockF_of_getUnsigned (hop : r.op = 2#3) : blockF r = getUnsigned r.word r.width r.lsb := by
  simp [blockF, hv, hop]
theorem blockF_of_getSigned (hop : r.op = 3#3) : blockF r = getSigned r.word r.width r.lsb := by
  simp [blockF, hv, hop]
theorem blockF_of_putUnsigned (hop : r.op = 4#3) : blockF r = putUnsigned r.word r.width r.lsb r.value := by
  simp [blockF, hv, hop]
theorem blockF_of_putSigned (hop : r.op = 5#3) : blockF r = putSigned r.word r.width r.lsb r.value := by
  simp [blockF, hv, hop]
theorem blockF_of_reserved (hop : r.op = 6#3 ∨ r.op = 7#3) : blockF r = .fatal .op := by
  simp [blockF, hv, hop]

/-! ### The outcomes of each format, the failing check first (R112) -/

theorem blockF_fits_cases (hop : r.op = 0#3 ∨ r.op = 1#3) :
    widthOk r.width = false ∧ blockF r = .fatal .descriptor ∨
    widthOk r.width = true ∧ ∃ x, blockF r = .ok x := by
  cases hw : widthOk r.width with
  | false =>
    refine .inl ⟨rfl, ?_⟩
    obtain hop | hop := hop
    · rw [blockF_of_fitsUnsigned hv hop, fitsUnsigned_of_malformed _ hw]
    · rw [blockF_of_fitsSigned hv hop, fitsSigned_of_malformed _ hw]
  | true =>
    obtain ⟨w, hcheck, -⟩ := exists_width hw
    refine .inr ⟨rfl, ?_⟩
    obtain hop | hop := hop
    · exact ⟨_, (blockF_of_fitsUnsigned hv hop).trans (fitsUnsigned_of_width _ hcheck)⟩
    · exact ⟨_, (blockF_of_fitsSigned hv hop).trans (fitsSigned_of_width _ hcheck)⟩

theorem blockF_get_cases (hop : r.op = 2#3 ∨ r.op = 3#3) :
    descOk r.width r.lsb = false ∧ blockF r = .fatal .descriptor ∨
    descOk r.width r.lsb = true ∧ ∃ x, blockF r = .ok x := by
  cases hd : descOk r.width r.lsb with
  | false =>
    refine .inl ⟨rfl, ?_⟩
    obtain hop | hop := hop
    · rw [blockF_of_getUnsigned hv hop, getUnsigned_of_malformed _ hd]
    · rw [blockF_of_getSigned hv hop, getSigned_of_malformed _ hd]
  | true =>
    obtain ⟨f, hcheck, -⟩ := exists_field hd
    refine .inr ⟨rfl, ?_⟩
    obtain hop | hop := hop
    · exact ⟨_, (blockF_of_getUnsigned hv hop).trans (getUnsigned_of_field _ hcheck)⟩
    · exact ⟨_, (blockF_of_getSigned hv hop).trans (getSigned_of_field _ hcheck)⟩

theorem blockF_putUnsigned_cases (hop : r.op = 4#3) :
    descOk r.width r.lsb = false ∧ blockF r = .fatal .descriptor ∨
    descOk r.width r.lsb = true ∧ (fitsUnsigned r.value r.width = .ok 0#64 ∧ blockF r = .noFit ∨
      fitsUnsigned r.value r.width = .ok 1#64 ∧ ∃ x, blockF r = .ok x) := by
  rw [blockF_of_putUnsigned hv hop]
  cases hd : descOk r.width r.lsb with
  | false => exact .inl ⟨rfl, putUnsigned_of_malformed _ _ hd⟩
  | true => exact .inr ⟨rfl, putUnsigned_follows_fitsUnsigned _ _ hd⟩

theorem blockF_putSigned_cases (hop : r.op = 5#3) :
    descOk r.width r.lsb = false ∧ blockF r = .fatal .descriptor ∨
    descOk r.width r.lsb = true ∧ (fitsSigned r.value r.width = .ok 0#64 ∧ blockF r = .noFit ∨
      fitsSigned r.value r.width = .ok 1#64 ∧ ∃ x, blockF r = .ok x) := by
  rw [blockF_of_putSigned hv hop]
  cases hd : descOk r.width r.lsb with
  | false => exact .inl ⟨rfl, putSigned_of_malformed _ _ hd⟩
  | true => exact .inr ⟨rfl, putSigned_follows_fitsSigned _ _ hd⟩

end

/-- The op codes by the outcomes their operations have. -/
theorem op_cases : ∀ op : BitVec 3,
    (op = 0#3 ∨ op = 1#3) ∨ (op = 2#3 ∨ op = 3#3) ∨ op = 4#3 ∨ op = 5#3 ∨ (op = 6#3 ∨ op = 7#3) := by
  decide

/-- Settles O45: in each row of the op code map the outcomes are separated by the row's own check and predicate, so the
first condition that applies is the only one that gives its outcome. -/
theorem outcomesFollowPriority : Obligations.OutcomesFollowPriority := by
  intro r
  cases hv : r.valid with
  | false => simp [blockF_of_not_valid hv]
  | true =>
    obtain hfits | hget | hputUnsigned | hputSigned | hreserved := op_cases r.op
    · obtain ⟨hw, hF⟩ | ⟨hw, x, hF⟩ := blockF_fits_cases hv hfits
      · obtain hop | hop := hfits <;> simp [hF, hw, hop]
      · obtain hop | hop := hfits <;> simp [hF, hw, hop]
    · obtain ⟨hd, hF⟩ | ⟨hd, x, hF⟩ := blockF_get_cases hv hget
      · obtain hop | hop := hget <;> simp [hF, hd, hop]
      · obtain hop | hop := hget <;> simp [hF, hd, hop]
    · obtain ⟨hd, hF⟩ | ⟨hd, ⟨hfit, hF⟩ | ⟨hfit, x, hF⟩⟩ := blockF_putUnsigned_cases hv hputUnsigned
      · simp [hF, hd, hputUnsigned]
      · simp [hF, hd, hfit, hputUnsigned]
      · simp [hF, hd, hfit, hputUnsigned]
    · obtain ⟨hd, hF⟩ | ⟨hd, ⟨hfit, hF⟩ | ⟨hfit, x, hF⟩⟩ := blockF_putSigned_cases hv hputSigned
      · simp [hF, hd, hputSigned]
      · simp [hF, hd, hfit, hputSigned]
      · simp [hF, hd, hfit, hputSigned]
    · have hF := blockF_of_reserved hv hreserved
      obtain hop | hop := hreserved <;> simp [hF, hop]

end Sys2Proof.Machine
end

section
/-! PROOFS. The 260-bit bundle and its decoding: where the six ports stand, that nothing is lost, and that the canonical
bundle of an instruction decodes to it (30_encoding.md R30, R33, R41, R42). -/

namespace Sys2Proof.Machine

/-! ### The six ports in the bundle (R30) -/

section
variable (r : Request)

/-- A piece at or above the last port's width is a piece of what stands before it. -/
theorem extractLsb'_append_above {v w : Nat} (hi : BitVec v) (lo : BitVec w) (start len : Nat) :
    (hi ++ lo).extractLsb' (start + w) len = hi.extractLsb' start len := by
  rw [BitVec.extractLsb'_append_eq_of_le (Nat.le_add_left w start), Nat.add_sub_cancel]

theorem toBundle_value : r.toBundle.extractLsb' 0 64 = r.value := BitVec.extractLsb'_append_eq_right

theorem toBundle_lsb : r.toBundle.extractLsb' 64 64 = r.lsb :=
  (extractLsb'_append_above _ r.value 0 64).trans BitVec.extractLsb'_append_eq_right

theorem toBundle_width : r.toBundle.extractLsb' 128 64 = r.width :=
  (extractLsb'_append_above _ r.value 64 64).trans <|
    (extractLsb'_append_above _ r.lsb 0 64).trans BitVec.extractLsb'_append_eq_right

theorem toBundle_above_width (start len : Nat) : r.toBundle.extractLsb' (start + 192) len =
    (BitVec.ofBool r.valid ++ r.op ++ r.word).extractLsb' start len :=
  (extractLsb'_append_above _ r.value (start + 128) len).trans <|
    (extractLsb'_append_above _ r.lsb (start + 64) len).trans (extractLsb'_append_above _ r.width start len)

theorem toBundle_word : r.toBundle.extractLsb' 192 64 = r.word :=
  (toBundle_above_width r 0 64).trans BitVec.extractLsb'_append_eq_right

theorem toBundle_op : r.toBundle.extractLsb' 256 3 = r.op :=
  (toBundle_above_width r 64 3).trans <|
    (extractLsb'_append_above _ r.word 0 3).trans BitVec.extractLsb'_append_eq_right

theorem toBundle_valid : r.toBundle.getLsbD 259 = r.valid := by
  have h : r.toBundle.extractLsb' 259 1 = BitVec.ofBool r.valid :=
    (toBundle_above_width r 67 1).trans <|
      (extractLsb'_append_above _ r.word 3 1).trans BitVec.extractLsb'_append_eq_left
  simpa using congrArg (BitVec.getLsbD · 0) h

@[simp] theorem ofBundle_toBundle : Request.ofBundle r.toBundle = r := by
  simp only [Request.ofBundle, toBundle_valid, toBundle_op, toBundle_word, toBundle_width, toBundle_lsb, toBundle_value]

end

/-- A single bit is a piece of one bit. -/
theorem ofBool_getLsbD_eq_extractLsb' {n : Nat} (b : BitVec n) (i : Nat) :
    BitVec.ofBool (b.getLsbD i) = b.extractLsb' i 1 := by
  apply BitVec.eq_of_getLsbD_eq
  intro j hj
  obtain rfl : j = 0 := Nat.lt_one_iff.mp hj
  simp

/-- Two pieces that follow one another are one piece. -/
theorem extractLsb'_append_next {n : Nat} (b : BitVec n) (start lo hi : Nat) :
    b.extractLsb' (start + lo) hi ++ b.extractLsb' start lo = b.extractLsb' start (hi + lo) :=
  BitVec.extractLsb'_append_extractLsb'_eq_extractLsb' rfl

/-- The six pieces of a bundle follow one another without a gap, so appending them gives the bundle. -/
@[simp] theorem toBundle_ofBundle (b : BitVec 260) : (Request.ofBundle b).toBundle = b := by
  rw [Request.toBundle, Request.ofBundle, ofBool_getLsbD_eq_extractLsb', extractLsb'_append_next b 256 3 1,
    extractLsb'_append_next b 192 64 4, extractLsb'_append_next b 128 64 68, extractLsb'_append_next b 64 64 132]
  exact BitVec.extractLsb'_append_extractLsb'

/-- Settles O2: each port is a piece of the append, and the pieces cover the bundle. -/
theorem bundleLaysOutSixPorts : Obligations.BundleLaysOutSixPorts := fun r =>
  ⟨⟨toBundle_valid r, toBundle_op r, toBundle_word r, toBundle_width r, toBundle_lsb r, toBundle_value r⟩,
    ofBundle_toBundle r, toBundle_ofBundle⟩

/-! ### Decoding (R33, R37, R39, R42) -/

/-- The request of an instruction selects the instruction's own row, and carries every operand of that row. -/
@[simp] theorem decodeRequest_encodeRequest (i : Instr) : decodeRequest (encodeRequest i) = i := by
  cases i <;> rfl

/-- Settles O1: the bundle gives the canonical request back, and the canonical request its instruction. -/
theorem decodeOfEncodeIsIdentity : Obligations.DecodeOfEncodeIsIdentity := fun i => by
  rw [decode, encode, ofBundle_toBundle, decodeRequest_encodeRequest]

/-- Settles O3: the rows of the op code map, one by one. -/
theorem headerSelectsRowAndOperands : Obligations.HeaderSelectsRowAndOperands := fun word width lsb value =>
  ⟨decodeRequest_fitsUnsigned .., decodeRequest_fitsSigned .., decodeRequest_getUnsigned ..,
    decodeRequest_getSigned .., decodeRequest_putUnsigned .., decodeRequest_putSigned ..,
    decodeRequest_reserved6 .., decodeRequest_reserved7 .., fun op => decodeRequest_not_valid op word width lsb value⟩

/-! The row of a request by its two header ports. -/

section
variable {r : Request} (hv : r.valid = true)
include hv

theorem decodeRequest_eq_fitsUnsigned (hop : r.op = 0#3) : decodeRequest r = .fitsUnsigned r.value r.width := by
  simp [decodeRequest, hv, hop]
theorem decodeRequest_eq_fitsSigned (hop : r.op = 1#3) : decodeRequest r = .fitsSigned r.value r.width := by
  simp [decodeRequest, hv, hop]
theorem decodeRequest_eq_getUnsigned (hop : r.op = 2#3) : decodeRequest r = .getUnsigned r.word r.width r.lsb := by
  simp [decodeRequest, hv, hop]
theorem decodeRequest_eq_getSigned (hop : r.op = 3#3) : decodeRequest r = .getSigned r.word r.width r.lsb := by
  simp [decodeRequest, hv, hop]
theorem decodeRequest_eq_putUnsigned (hop : r.op = 4#3) :
    decodeRequest r = .putUnsigned r.word r.width r.lsb r.value := by
  simp [decodeRequest, hv, hop]
theorem decodeRequest_eq_putSigned (hop : r.op = 5#3) :
    decodeRequest r = .putSigned r.word r.width r.lsb r.value := by
  simp [decodeRequest, hv, hop]

end

/-- A word of fewer than 260 bits is decoded by its header, every operand 0. -/
theorem decodeTableWord_header {nbits : Nat} (h : nbits < 260) (w : Nat) :
    decodeTableWord nbits w = some (decodeRequest (headerRequest (w % 16))) := by
  rw [decodeTableWord, tableRequest, if_pos h, Option.map_some]

set_option exponentiation.threshold 300 in
/-- The bundle of an instruction, placed as a word of the opcode table, decodes to it. -/
theorem decodeTableWord_encode (i : Instr) : decodeTableWord 260 (encode i).toNat = some i := by
  have hlimit : (encode i).toNat < bundleLimit := (encode i).isLt
  rw [decodeTableWord, tableRequest, if_neg (Nat.lt_irrefl 260), if_pos hlimit, BitVec.ofNat_toNat, BitVec.setWidth_eq,
    encode, ofBundle_toBundle, Option.map_some, decodeRequest_encodeRequest]

set_option exponentiation.threshold 300 in
/-- Settles O4: a header-only word is its row with every operand 0, and the worked bundle is the canonical bundle of its
instruction. -/
theorem tableWordsDecodeAsWritten : Obligations.TableWordsDecodeAsWritten := by
  refine ⟨?_, ?_, ?_, ?_, ?_, ?_, ?_, ?_, ?_, ?worked⟩
  case worked =>
    have hencode : encode (.getUnsigned 23 3 2) =
        0xA0000000000000017000000000000000300000000000000020000000000000000#260 := by decide
    have h := decodeTableWord_encode (.getUnsigned 23 3 2)
    rwa [hencode] at h
  all_goals rw [decodeTableWord_header (by decide)]; rfl

end Sys2Proof.Machine
end

section
/-! PROOFS. Reading a response bundle back (30_encoding.md R31, R36; 93_implementation_defined.md U10). -/

namespace Sys2Proof.Machine

/-- The three-bit codes: the five statuses' own and the three that are never driven (R36). -/
theorem statusCode_cases : ∀ c : BitVec 3, c = 0#3 ∨ c = 1#3 ∨ c = 2#3 ∨ c = 3#3 ∨ c = 4#3 ∨ 5 ≤ c.toNat := by
  decide

@[simp] theorem decodeResponse_encodeResponse (o : Response) : decodeResponse (encodeResponse o) = .ok o := by
  simp only [decodeResponse, encodeResponse_status, encodeResponse_result]
  rcases o with _ | r | _ | _ | _ <;> rfl

/-- The two pieces of a response bundle are the whole of it. -/
theorem encodeResponse_eq {b : BitVec 67} {o : Response} (hstatus : b.extractLsb' 64 3 = o.status.code)
    (hresult : b.extractLsb' 0 64 = o.result) : encodeResponse o = b := by
  rw [encodeResponse, ← hstatus, ← hresult]
  exact BitVec.extractLsb'_append_extractLsb'

theorem decodeResponse_of_reserved {b : BitVec 67} (h : 5 ≤ (b.extractLsb' 64 3).toNat) :
    decodeResponse b = .error (.reservedStatus (b.extractLsb' 64 3)) := by
  have hok : b.extractLsb' 64 3 ≠ 1#3 := by
    intro h1
    rw [h1] at h
    exact absurd h (by decide)
  simp only [decodeResponse, if_neg hok, if_pos h]

/-- A bundle is read as an outcome only where it has the outcome's own two pieces. -/
theorem encodeResponse_of_decodeResponse {b : BitVec 67} {o : Response} (h : decodeResponse b = .ok o) :
    encodeResponse o = b := by
  suffices hpieces : b.extractLsb' 64 3 = o.status.code ∧ b.extractLsb' 0 64 = o.result from
    encodeResponse_eq hpieces.1 hpieces.2
  rcases statusCode_cases (b.extractLsb' 64 3) with hc | hc | hc | hc | hc | hc
  case inr.inr.inr.inr.inr =>
    rw [decodeResponse_of_reserved hc] at h
    cases h
  case inr.inl =>
    simp only [decodeResponse, hc] at h
    cases h
    exact ⟨hc, rfl⟩
  all_goals
    simp only [decodeResponse, hc] at h
    split at h
    next heq => exact absurd heq (by decide)
    split at h
    next hle => exact absurd hle (by decide)
    split at h
    next => cases h
    next hr =>
      cases h
      exact ⟨hc, Decidable.not_not.mp hr⟩

/-- Settles O7: reading inverts printing, and reads nothing else. -/
theorem responseBundleReadsBack : Obligations.ResponseBundleReadsBack :=
  ⟨decodeResponse_encodeResponse, fun _ _ => encodeResponse_of_decodeResponse, fun _ => decodeResponse_of_reserved⟩

end Sys2Proof.Machine
end

section
/-! PROOFS. How an instruction is answered: with F of the request's ports, in every state alike, and with no effect but on
the outputs, the record and the fault mark (10_state.md R10, R15, R19; 30_encoding.md R37, R39, R42; 60_exceptions.md R97,
R98). -/

namespace Sys2Proof.Machine

/-! ### The answer and the fatal outcome as whole next states -/

section
variable {i : Instr} {s : State} {o : Response} {c : Cause}

theorem answers_of_exec (h : exec i s = .next (s.respond o)) (ho : fatalCause o = none) : Answers i s o := by
  rw [Answers, h, State.respond, markFault_of_not_fatal ho]

theorem endsFatal_of_exec (h : exec i s = .next (s.respond (.fatal c))) : EndsFatal i s c := by
  rw [EndsFatal, h, State.respond, markFault_fatal]

end

/-! ### F answers (R15, R42) -/

/-- Every request is answered with F of its ports: the decoder and F choose the same row. -/
theorem exec_decodeRequest (r : Request) (s : State) :
    exec (decodeRequest r) s = .next (s.respond (blockF r)) := by
  obtain ⟨valid, op, word, width, lsb, value⟩ := r
  cases valid with
  | false => rfl
  | true => obtain (rfl | rfl) | (rfl | rfl) | rfl | rfl | (rfl | rfl) := op_cases op <;> rfl

/-- Settles O44: the decoder and F choose the same row, and the mark depends on the outcome alone. -/
theorem everyRequestIsAnsweredByF : Obligations.EveryRequestIsAnsweredByF := fun s r =>
  ⟨exec_decodeRequest r s, answers_of_exec (exec_decodeRequest r s),
    fun _ hc => endsFatal_of_exec (hc ▸ exec_decodeRequest r s)⟩

/-- Settles O46: what an instruction is answered with is chosen before the state is given. -/
theorem responseDependsOnRequestAlone : Obligations.ResponseDependsOnRequestAlone := by
  intro i s s' t t' ht ht'
  obtain ⟨o, ho⟩ := exec_answers i
  rw [ho] at ht ht'
  cases ht
  cases ht'
  rfl

/-- Settles O47: an instruction's whole effect is its response. -/
theorem execChangesOutputAndRecordOnly : Obligations.ExecChangesOutputAndRecordOnly := by
  intro i s t ht
  obtain ⟨o, ho⟩ := exec_answers i
  rw [ho] at ht
  cases ht
  refine ⟨rfl, rfl, rfl, rfl, fun h => markFault_of_not_fatal h s.fault, fun c hc => ?marked, fun c hc hout => ?first⟩
  case marked => rw [respond_fault, hc, markFault_some]
  case first => rw [respond_fault, hc, markFault_none]; exact fatalCause_eq_some.mpr hout

/-! ### The rows that are no operation, and the failing checks -/

theorem endsFatal_reserved6 (s : State) : EndsFatal .reserved6 s .op := endsFatal_of_exec rfl
theorem endsFatal_reserved7 (s : State) : EndsFatal .reserved7 s .op := endsFatal_of_exec rfl
theorem answers_idle (s : State) : Answers .idle s .idle := answers_of_exec rfl rfl

/-- Settles O25: both codes decode to instructions without operands. -/
theorem reservedOpCodesEndFatal : Obligations.ReservedOpCodesEndFatal := fun s _ _ _ _ =>
  ⟨endsFatal_reserved6 s, endsFatal_reserved7 s, endsFatal_reserved6 s, endsFatal_reserved7 s, rfl, rfl⟩

/-- Settles O26: every request with `valid` = 0 decodes to the instruction without operands that is answered IDLE. -/
theorem noRequestAnswersIdle : Obligations.NoRequestAnswersIdle := fun s _ _ _ _ _ =>
  ⟨answers_idle s, answers_idle s, rfl, rfl⟩

section
variable {width lsb : Word} (word value : Word) (s : State)

theorem endsFatal_fits (h : widthOk width = false) :
    EndsFatal (.fitsUnsigned value width) s .descriptor ∧ EndsFatal (.fitsSigned value width) s .descriptor := by
  refine ⟨endsFatal_of_exec ?_, endsFatal_of_exec ?_⟩
  · rw [exec_fitsUnsigned, fitsUnsigned_of_malformed value h]
  · rw [exec_fitsSigned, fitsSigned_of_malformed value h]

theorem endsFatal_get (h : descOk width lsb = false) :
    EndsFatal (.getUnsigned word width lsb) s .descriptor ∧ EndsFatal (.getSigned word width lsb) s .descriptor := by
  refine ⟨endsFatal_of_exec ?_, endsFatal_of_exec ?_⟩
  · rw [exec_getUnsigned, getUnsigned_of_malformed word h]
  · rw [exec_getSigned, getSigned_of_malformed word h]

theorem endsFatal_put (h : descOk width lsb = false) :
    EndsFatal (.putUnsigned word width lsb value) s .descriptor ∧
    EndsFatal (.putSigned word width lsb value) s .descriptor := by
  refine ⟨endsFatal_of_exec ?_, endsFatal_of_exec ?_⟩
  · rw [exec_putUnsigned, putUnsigned_of_malformed word value h]
  · rw [exec_putSigned, putSigned_of_malformed word value h]

end

/-- Settles O27: each of the six operations asks its check first. -/
theorem malformedDescriptorsEndFatal : Obligations.MalformedDescriptorsEndFatal := by
  intro s word width lsb value
  refine ⟨endsFatal_fits value s, fun h => ?descriptor, rfl, rfl⟩
  case descriptor =>
    obtain ⟨hgetU, hgetS⟩ := endsFatal_get word s h
    obtain ⟨hputU, hputS⟩ := endsFatal_put word value s h
    exact ⟨hgetU, hgetS, hputU, hputS⟩

end Sys2Proof.Machine
end

section
/-! PROOFS. One step of a run: what it does with each action, and the two invariants it keeps (10_state.md R15;
60_exceptions.md R98, R103; 70_reset_and_hazards.md R116, R121, R124). -/

namespace Sys2Proof.Machine

/-! ### Performing an action -/

theorem present_eq (r : Request) (s : State) : present r s = .next ((s.driveInputs r).respond (blockF r)) :=
  exec_decodeRequest r _

theorem perform_drive (r : Request) (s : State) :
    perform (.drive r) s = .next ((s.driveInputs r).respond (blockF r)) := present_eq r s

theorem perform_line {l : Line} {s : State} {r : Request} (h : lineRequest s.names l = .ok r) :
    perform (.line l) s = .next (((s.driveInputs r).respond (blockF r)).bindOutput l.bind) := by
  simp only [perform, h, present_eq]

theorem perform_line_of_error {l : Line} {s : State} {e : Refusal} (h : lineRequest s.names l = .error e) :
    perform (.line l) s = .refused e := by
  simp only [perform, h]

/-- Only the fault mark faults a step, never an action. -/
theorem perform_ne_fault (a : Action) (s : State) (e : Fault) : perform a s ≠ .fault e := by
  cases a with
  | drive r => simp [perform_drive]
  | indefinite => simp [perform]
  | line l =>
    cases h : lineRequest s.names l with
    | error e' => simp [perform_line_of_error h]
    | ok r => simp [perform_line h]

theorem step_of_drive {s : State} {r : Request} {rest : List Action} (hf : s.fault = none)
    (hp : s.pending = .drive r :: rest) :
    step s = .next ((({ s with pending := rest } : State).driveInputs r).respond (blockF r)) := by
  rw [step_of_action hf hp, perform_drive]

/-- The response to a transaction is F of its request. -/
theorem eq_blockF_of_present {r : Request} {o : Response}
    (h : ∀ u, present r u = .next ((u.driveInputs r).respond o)) : o = blockF r := by
  have := (present_eq r .reset).symm.trans (h .reset)
  exact (congrArg State.output (Host.Outcome.next.inj this)).symm

/-! ### The invariants (R15, R103) -/

/-- Settles O55: the rest shows IDLE, which is F of no request, and a transaction shows F of its own request. -/
theorem stepKeepsOutputsCombinational : Obligations.StepKeepsOutputsCombinational := by
  refine step_keeps (P := State.Combinational) (fun _ _ _ => rfl) ?transaction
  case transaction =>
    intro s rest r b o _ _ hr
    rw [State.Combinational, bindOutput_output, bindOutput_inputs]
    exact eq_blockF_of_present hr

/-- In a run without a mark the honest record has no fatal outcome yet. -/
theorem no_fatal_of_faultHonest {s : State} (h : s.FaultHonest) (hf : s.fault = none) :
    ∀ o ∈ s.responses, fatalCause o = none := by
  obtain ⟨-, h⟩ | ⟨_, c, -, -, hc⟩ := h
  · exact h
  · rw [hf] at hc; cases hc

/-- Answering keeps an unmarked record honest: a fatal response is the first, and marks the run with its cause. -/
theorem faultHonest_of_respond {s t : State} {o : Response} (h : ∀ p ∈ s.responses, fatalCause p = none)
    (hr : t.responses = s.responses ++ [o]) (hf : t.fault = fatalCause o) : t.FaultHonest := by
  cases ho : fatalCause o with
  | none =>
    refine .inl ⟨hf.trans ho, ?_⟩
    rw [hr, List.forall_mem_append, List.forall_mem_singleton]
    exact ⟨h, ho⟩
  | some c =>
    obtain rfl := fatalCause_eq_some.mp ho
    exact .inr ⟨s.responses, c, hr, h, hf⟩

/-- Settles O56: a step is performed only without a mark, so its response is the first that can be fatal. -/
theorem stepKeepsFaultMarkHonest : Obligations.StepKeepsFaultMarkHonest := by
  refine step_keeps (P := State.FaultHonest) (fun _ hs _ => hs) ?transaction
  case transaction =>
    intro s rest r b o hs hf _
    refine faultHonest_of_respond (s := s) (o := o) (no_fatal_of_faultHonest hs hf) ?_ ?_
    · rw [bindOutput_responses]; rfl
    · rw [bindOutput_fault, respond_fault, driveInputs_fault, hf, markFault_none]

/-- Settles O57: at reset the outputs show IDLE, which is F of no request, and the record is empty. -/
theorem invariantsHoldAtReset : Obligations.InvariantsHoldAtReset :=
  ⟨rfl, .inl ⟨rfl, List.forall_mem_nil _⟩⟩

/-! ### The rest, the request next, and the faulted run -/

/-- Settles O48: the outputs at rest are those at reset. -/
theorem resetShowsIdle : Obligations.ResetShowsIdle :=
  ⟨rfl, rfl, rfl, rfl, rfl, rfl, rfl, fun s hf hp =>
    ⟨s.rest, step_of_done hf hp, rfl, rfl, rfl, rfl, rfl, hf, hp⟩⟩

theorem tableAction_of_request {nbits w : Nat} {r : Request} (h : tableRequest nbits w = some r) :
    tableAction nbits w = .drive r := by
  simp only [tableAction, h]

/-- Settles O49: the next action is taken from the caller's list, where `withFetchWord` places the word's request. -/
theorem stepRunsDecodedInstruction : Obligations.StepRunsDecodedInstruction := by
  refine ⟨fun s r rest hf hp => step_of_action hf hp, fun s nbits w r h => ⟨?decoded, ?placed⟩⟩
  case decoded => rw [decodeTableWord, h, Option.map_some]
  case placed =>
    have hp : (s.withFetchWord nbits w).pending = .drive r :: s.pending := by
      rw [withFetchWord_pending, tableAction_of_request h]
    exact step_of_action (withFetchWord_fault s nbits w) hp

/-- A step faults only where the mark stands. -/
theorem fault_of_step {s : State} {e : Fault} (h : step s = .fault e) : ∃ c, e = .runFaulted c ∧ s.fault = some c := by
  cases hf : s.fault with
  | some c =>
    rw [step_of_faulted hf] at h
    cases h
    exact ⟨c, rfl, rfl⟩
  | none =>
    cases hp : s.pending with
    | nil => rw [step_of_done hf hp] at h; cases h
    | cons a rest => rw [step_of_action hf hp] at h; exact absurd h (perform_ne_fault a _ e)

/-- Settles O54: a step that answers a next state started without a mark, so its mark is the cause of its own response. -/
theorem faultedRunPerformsNothing : Obligations.FaultedRunPerformsNothing := by
  refine ⟨fun s c => step_of_faulted, fun s e => fault_of_step, fun s t h => ?_⟩
  obtain ⟨hf, ⟨-, rfl⟩ | ⟨a, rest, r, b, -, -, ht⟩⟩ := step_cases h
  · exact ⟨hf, .inl hf⟩
  · refine ⟨hf, ?_⟩
    have hmark : t.fault = fatalCause t.output := by
      rw [ht, bindOutput_fault, respond_fault, driveInputs_fault, hf, markFault_none, bindOutput_output,
        respond_output]
    rw [hmark]
    cases t.output with
    | fatal c => exact .inr ⟨c, rfl, rfl⟩
    | idle | ok _ | noFit => exact .inl rfl

end Sys2Proof.Machine
end

section
/-! PROOFS. Runs of several requests: the responses are the image of the requests under F, up to the first fatal one
(20_memory.md R25; 70_reset_and_hazards.md R124). -/

namespace Sys2Proof.Machine

/-- Requests without a fatal outcome are performed one after another, whatever stands after them in the caller's list. -/
theorem run_drives (more : List Action) : ∀ (rs : List Request) (s : State), s.fault = none →
    s.pending = rs.map .drive ++ more → (∀ r ∈ rs, fatalCause (blockF r) = none) →
    ∃ t : State, Sys2Proof.core.run rs.length s = .next t ∧ t.responses = s.responses ++ rs.map blockF ∧
      t.pending = more ∧ t.fault = none ∧ t.names = s.names := by
  intro rs
  induction rs with
  | nil => exact fun s hf hp _ => ⟨s, rfl, (List.append_nil _).symm, hp, hf, rfl⟩
  | cons r rs ih =>
    intro s hf hp hrs
    obtain ⟨hr, hrs⟩ := List.forall_mem_cons.mp hrs
    have hstep := step_of_drive hf hp
    obtain ⟨t, hrun, hresp, hpend, hfault, hnames⟩ :=
      ih (({ s with pending := rs.map .drive ++ more } : State).driveInputs r |>.respond (blockF r))
        ((markFault_of_not_fatal hr _).trans hf) rfl hrs
    refine ⟨t, (run_succ_of_next hstep _).trans hrun, ?_, hpend, hfault, hnames⟩
    rw [hresp, respond_responses, List.append_assoc]
    rfl

/-- Settles O58: the requests are the whole of the caller's list. -/
theorem runIsPointwiseImageUnderF : Obligations.RunIsPointwiseImageUnderF := fun rs s hf hp hrs =>
  run_drives [] rs s hf (hp.trans (List.append_nil _).symm) hrs

/-- Settles O59: the run reaches the fatal request by steps that are not fatal, and the step after it finds the mark. -/
theorem runStopsAtFirstFatalOutcome : Obligations.RunStopsAtFirstFatalOutcome := by
  intro before bad after c s hf hp hbefore hbad
  rw [List.map_append] at hp
  obtain ⟨t, hrun, hresp, hpend, hfault, -⟩ := run_drives _ before s hf hp hbefore
  have hstep := step_of_drive (rest := after.map .drive) hfault hpend
  rw [hbad] at hstep
  refine ⟨⟨({ t with pending := after.map .drive } : State).driveInputs bad |>.respond (.fatal c),
    ?reached, ?responses, ?mark, rfl⟩, fun n => ?faulted⟩
  case reached => exact (run_add_of_next hrun 1).trans (run_succ_of_next hstep 0)
  case responses => rw [respond_responses, driveInputs_responses, hresp]
  case mark => rw [respond_fault, driveInputs_fault, hfault, markFault_none]; rfl
  case faulted =>
    rw [Nat.add_assoc, run_add_of_next hrun, Nat.add_comm 1, run_succ_of_next hstep]
    refine run_succ_of_fault (step_of_faulted ?_) n
    rw [respond_fault, driveInputs_fault, hfault, markFault_none]; rfl

end Sys2Proof.Machine
end

section
/-! PROOFS. The caller's lines: the request a line makes, the name it binds, and the lines and inputs that are refused
(30_encoding.md R40, R41, R44; 60_exceptions.md R110; 70_reset_and_hazards.md R116, R120). -/

namespace Sys2Proof.Machine

/-! ### Binding the name of a line (R40) -/

section
variable (s : State) {b : Option Name} {x : Name}

theorem lookupName_bindOutput_self (h : b = some x) : lookupName (s.bindOutput b).names x = some s.output := by
  rw [h, bindOutput_names_some, lookupName_bindName_self]

theorem lookupName_bindOutput_of_ne (h : b ≠ some x) :
    lookupName (s.bindOutput b).names x = lookupName s.names x := by
  cases b with
  | none => rfl
  | some y => exact lookupName_bindName_of_ne s.output s.names fun hxy => h (congrArg some hxy.symm)

end

theorem step_of_line {s : State} {l : Line} {rest : List Action} {r : Request} (hf : s.fault = none)
    (hp : s.pending = .line l :: rest) (hr : lineRequest s.names l = .ok r) :
    step s =
      .next (((({ s with pending := rest } : State).driveInputs r).respond (blockF r)).bindOutput l.bind) :=
  (step_of_action hf hp).trans (perform_line hr)

theorem step_of_line_error {s : State} {l : Line} {rest : List Action} {e : Refusal} (hf : s.fault = none)
    (hp : s.pending = .line l :: rest) (he : lineRequest s.names l = .error e) : step s = .refused e :=
  (step_of_action hf hp).trans (perform_line_of_error he)

/-- Settles O50: a line is one transaction, after which its name is bound to what the outputs show. -/
theorem stepRunsLineAndBinds : Obligations.StepRunsLineAndBinds := by
  intro s l rest r hf hp hr
  refine ⟨_, step_of_line hf hp hr, bindOutput_inputs .., bindOutput_output .., bindOutput_pending ..,
    bindOutput_responses .., ?mark, fun x hx => lookupName_bindOutput_self _ hx,
    fun x hx => lookupName_bindOutput_of_ne _ hx⟩
  case mark => rw [bindOutput_fault, respond_fault, driveInputs_fault, hf, markFault_none]

/-! ### The values of a line's arguments (R34, R44) -/

section
variable {env : List (Name × Response)} {a : Arg} {as : List Arg} {e : Refusal} {w : Word} {ws : List Word}

theorem argWords_cons_of_error (h : argWord env a = .error e) : argWords env (a :: as) = .error e := by
  simp only [argWords, h]

theorem argWords_cons_of_rest_error (ha : Denotes env a w) (h : argWords env as = .error e) :
    argWords env (a :: as) = .error e := by
  simp only [argWords, argWord_eq_ok_iff.mpr ha, h]

theorem argWords_cons_of_ok (ha : Denotes env a w) (h : argWords env as = .ok ws) :
    argWords env (a :: as) = .ok (w :: ws) := by
  simp only [argWords, argWord_eq_ok_iff.mpr ha, h]

/-- Arguments that each stand for a Word have those Words for their values, in order. -/
theorem argWords_of_denotes (h : List.Forall₂ (Denotes env) as ws) : argWords env as = .ok ws := by
  induction h with
  | nil => rfl
  | cons ha _ ih => exact argWords_cons_of_ok ha ih

/-- A name stands for a Word where it is bound to an OK result, and a literal always does. -/
theorem exists_denotes (h : ∀ x, a = .name x → ∃ v, lookupName env x = some (.ok v)) : ∃ w, Denotes env a w := by
  cases a with
  | dec n => exact ⟨_, .dec n⟩
  | hex n => exact ⟨_, .hex n⟩
  | neg n => exact ⟨_, .neg n⟩
  | name x =>
    obtain ⟨v, hv⟩ := h x rfl
    exact ⟨v, .name x v hv⟩

theorem exists_denotes_all (h : ∀ x, Arg.name x ∈ as → ∃ v, lookupName env x = some (.ok v)) :
    ∃ ws, List.Forall₂ (Denotes env) as ws := by
  induction as with
  | nil => exact ⟨[], .nil⟩
  | cons a as ih =>
    obtain ⟨w, hw⟩ := exists_denotes (a := a) fun x hx => h x (hx ▸ List.mem_cons_self)
    obtain ⟨ws, hws⟩ := ih fun x hx => h x (List.mem_cons_of_mem a hx)
    exact ⟨w :: ws, .cons hw hws⟩

/-- A well-formed line whose arguments stand for Words makes the call's request. -/
theorem lineRequest_of_denotes {l : Line} {r : Request} (hwf : l.wf = true)
    (h : List.Forall₂ (Denotes env) l.args ws) (hr : callRequest l.op ws = some r) : lineRequest env l = .ok r := by
  simp only [lineRequest, hwf, if_true, argWords_of_denotes h, hr]

theorem lineRequest_of_argWords_error {l : Line} (hwf : l.wf = true) (h : argWords env l.args = .error e) :
    lineRequest env l = .error e := by
  simp only [lineRequest, hwf, if_true, h]

theorem lineRequest_of_not_wf {l : Line} (hwf : l.wf = false) : lineRequest env l = .error .illFormedLine := by
  simp [lineRequest, hwf]

end

/-! ### One line, one request (R41) -/

/-- The request `r` of a call of `op` is canonical: `valid` is 1, the code is the operation's, and a port that the
operation does not name carries 0. -/
structure CanonicalCall (op : Operation) (r : Request) : Prop where
  valid     : r.valid = true
  code      : r.op = op.code
  roundTrip : encodeRequest (decodeRequest r) = r
  formatF   : op.format = .f → r.word = 0#64 ∧ r.lsb = 0#64
  formatG   : op.format = .g → r.value = 0#64

/-- As many Words as the format takes make a canonical request. -/
theorem callRequest_canonical {op : Operation} {ws : List Word} (h : ws.length = op.format.arity) :
    ∃ r, callRequest op ws = some r ∧ CanonicalCall op r := by
  cases op with
  | fitsUnsigned | fitsSigned =>
    obtain ⟨value, width, rfl⟩ := List.length_eq_two.mp h
    exact ⟨_, rfl, rfl, rfl, rfl, fun _ => ⟨rfl, rfl⟩, nofun⟩
  | getUnsigned | getSigned =>
    obtain ⟨word, width, lsb, rfl⟩ := List.length_eq_three.mp h
    exact ⟨_, rfl, rfl, rfl, rfl, nofun, fun _ => rfl⟩
  | putUnsigned | putSigned =>
    obtain ⟨word, width, lsb, value, rfl⟩ := List.length_eq_four.mp h
    exact ⟨_, rfl, rfl, rfl, rfl, nofun, nofun⟩

theorem length_args_of_wf {l : Line} (h : l.wf = true) : l.args.length = l.op.format.arity := by
  simp only [Line.wf, Bool.and_eq_true, beq_iff_eq] at h
  exact h.1.1.1

/-- Settles O51: the arguments of a well-formed line are as many as its format takes. -/
theorem lineEncodesToOneRequest : Obligations.LineEncodesToOneRequest := by
  intro env l hwf hnames
  obtain ⟨ws, hws⟩ := exists_denotes_all hnames
  obtain ⟨r, hr, hcanonical⟩ := callRequest_canonical (hws.length_eq.symm.trans (length_args_of_wf hwf))
  exact ⟨r, lineRequest_of_denotes hwf hws hr, hcanonical.valid, hcanonical.code, hcanonical.roundTrip,
    hcanonical.formatF, hcanonical.formatG⟩

/-! ### Arguments in their places, and misplaced or oversized literals (R44) -/

/-- A negative literal stands at the place of `value`, in an operation that reads `value` as signed. -/
theorem value_place_of_negativesWf {op : Operation} {before after : List Arg} {n : Nat} {i : Nat}
    (h : negativesWf op i (before ++ .neg n :: after) = true) :
    op.readsSigned = true ∧ op.format.valueIndex = some (i + before.length) := by
  induction before generalizing i with
  | nil =>
    simp only [List.nil_append, negativesWf, Arg.isNeg, Bool.not_true, Bool.false_or, Bool.and_eq_true, beq_iff_eq] at h
    exact h.1
  | cons a before ih =>
    simp only [List.cons_append, negativesWf, Bool.and_eq_true] at h
    obtain ⟨hsigned, hplace⟩ := ih h.2
    exact ⟨hsigned, by rw [hplace, List.length_cons, Nat.add_right_comm, Nat.add_assoc]⟩

section
variable {bind : Option Name} {op : Operation} {args before after : List Arg} {a : Arg}

theorem line_not_wf_of_arg (h : a.wf = false) : Line.wf ⟨bind, op, before ++ a :: after⟩ = false := by
  simp [Line.wf, h]

theorem line_not_wf_of_negatives (h : negativesWf op 0 args = false) : Line.wf ⟨bind, op, args⟩ = false := by
  simp [Line.wf, h]

theorem line_wf_of_args (hbind : ∀ x, bind = some x → nameWf x = true) (hlength : args.length = op.format.arity)
    (hargs : args.all Arg.wf = true) (hneg : negativesWf op 0 args = true) : Line.wf ⟨bind, op, args⟩ = true := by
  simp [line_wf_of_bind hbind, hlength, hargs, hneg]

theorem negativesWf_cons_of_not_neg {i : Nat} (ha : a.isNeg = false) (h : negativesWf op (i + 1) args = true) :
    negativesWf op i (a :: args) = true := by
  simp [negativesWf, ha, h]

theorem negativesWf_cons_of_place {i : Nat}
    (ha : a.isNeg = true → op.readsSigned = true ∧ op.format.valueIndex = some i)
    (h : negativesWf op (i + 1) args = true) : negativesWf op i (a :: args) = true := by
  cases hneg : a.isNeg with
  | false => exact negativesWf_cons_of_not_neg hneg h
  | true =>
    obtain ⟨hsigned, hplace⟩ := ha hneg
    simp [negativesWf, hsigned, hplace, h]

/-- The operations that take a negative literal, and the place of it. -/
theorem negative_place {i : Nat} (hsigned : op.readsSigned = true) (hplace : op.format.valueIndex = some i) :
    op = .fitsSigned ∧ i = 0 ∨ op = .putSigned ∧ i = 3 := by
  cases op with
  | fitsSigned => exact .inl ⟨rfl, (Option.some.inj hplace).symm⟩
  | putSigned => exact .inr ⟨rfl, (Option.some.inj hplace).symm⟩
  | fitsUnsigned | getUnsigned | getSigned | putUnsigned => cases hsigned

theorem negativesWf_of_misplaced {n : Nat} (hfits : ¬(op = .fitsSigned ∧ before.length = 0))
    (hput : ¬(op = .putSigned ∧ before.length = 3)) : negativesWf op 0 (before ++ .neg n :: after) = false := by
  refine Bool.eq_false_of_not_eq_true fun h => ?_
  obtain ⟨hsigned, hplace⟩ := value_place_of_negativesWf h
  rw [Nat.zero_add] at hplace
  exact (negative_place hsigned hplace).elim hfits hput

end

/-- Settles O52: arguments of the right number and form, negatives only in their place, make a well-formed line, and its
request takes their Words in order; a literal out of place or out of range makes the line ill formed. -/
theorem lineOperandsInOrder : Obligations.LineOperandsInOrder := by
  intro env bind op hbind
  refine ⟨?accepted, fun before after n => ⟨?misplaced, ?below, ?above⟩⟩
  case accepted =>
    intro a b c d wa wb wc wd ha hb hc hd hawf hbwf hcwf hdwf hbneg hcneg
    refine ⟨fun hop haneg => ?f, fun hop haneg => ?g, fun hop haneg hdneg => ?p⟩
    case f =>
      refine lineRequest_of_denotes (line_wf_of_args hbind (by rw [hop]; rfl) (by simp [*]) ?_)
        (.cons ha (.cons hb .nil)) (by simp only [callRequest, hop])
      refine negativesWf_cons_of_place (fun h => ?_) (negativesWf_cons_of_not_neg hbneg rfl)
      rw [haneg h]
      exact ⟨rfl, rfl⟩
    case g =>
      refine lineRequest_of_denotes (line_wf_of_args hbind (by rw [hop]; rfl) (by simp [*]) ?_)
        (.cons ha (.cons hb (.cons hc .nil))) (by simp only [callRequest, hop])
      exact negativesWf_cons_of_not_neg haneg (negativesWf_cons_of_not_neg hbneg (negativesWf_cons_of_not_neg hcneg rfl))
    case p =>
      refine lineRequest_of_denotes (line_wf_of_args hbind (by rw [hop]; rfl) (by simp [*]) ?_)
        (.cons ha (.cons hb (.cons hc (.cons hd .nil)))) (by simp only [callRequest, hop])
      refine negativesWf_cons_of_not_neg haneg <| negativesWf_cons_of_not_neg hbneg <|
        negativesWf_cons_of_not_neg hcneg <| negativesWf_cons_of_place (fun h => ?_) rfl
      rw [hdneg h]
      exact ⟨rfl, rfl⟩
  case misplaced =>
    exact fun hfits hput => lineRequest_of_not_wf (line_not_wf_of_negatives (negativesWf_of_misplaced hfits hput))
  case below =>
    exact fun hn => lineRequest_of_not_wf (line_not_wf_of_arg (decide_eq_false (Nat.not_le.mpr hn)))
  case above =>
    exact fun hn => ⟨lineRequest_of_not_wf (line_not_wf_of_arg (decide_eq_false (Nat.not_lt.mpr hn))),
      lineRequest_of_not_wf (line_not_wf_of_arg (decide_eq_false (Nat.not_lt.mpr hn)))⟩

/-! ### The caller's errors (R110, R116, R120) -/

/-- `e` refuses the use of `x`: the name is bound to nothing, or to an outcome that is not OK. -/
def RefusesName (env : List (Name × Response)) (x : Name) (e : Refusal) : Prop :=
  (lookupName env x = none ∧ e = .unboundName x) ∨
  ∃ o, lookupName env x = some o ∧ (∀ v, o ≠ .ok v) ∧ e = .nonOkResult x

section
variable {env : List (Name × Response)} {x : Name}

theorem argWord_name_refused (h : ∀ v, lookupName env x ≠ some (.ok v)) :
    ∃ e, argWord env (.name x) = .error e ∧ RefusesName env x e := by
  cases hx : lookupName env x with
  | none => exact ⟨.unboundName x, by simp only [argWord, hx], .inl ⟨hx, rfl⟩⟩
  | some o =>
    have ho : ∀ v, o ≠ .ok v := fun v hv => h v (hx.trans (congrArg some hv))
    refine ⟨.nonOkResult x, ?_, .inr ⟨o, hx, ho, rfl⟩⟩
    cases o with
    | ok v => exact absurd rfl (ho v)
    | idle | noFit | fatal _ => simp only [argWord, hx]

/-- The leftmost name without an OK result is the one the line is refused for. -/
theorem argWords_refused {as : List Arg} (h : ∃ x, Arg.name x ∈ as ∧ ∀ v, lookupName env x ≠ some (.ok v)) :
    ∃ x e, Arg.name x ∈ as ∧ argWords env as = .error e ∧ RefusesName env x e := by
  induction as with
  | nil => obtain ⟨x, hx, -⟩ := h; cases hx
  | cons a as ih =>
    by_cases ha : ∃ w, Denotes env a w
    case neg =>
      obtain ⟨x, rfl, hx⟩ : ∃ x, a = .name x ∧ ∀ v, lookupName env x ≠ some (.ok v) := by
        by_contra hcon
        refine ha (exists_denotes fun x hx => ?_)
        by_contra hv
        exact hcon ⟨x, hx, not_exists.mp hv⟩
      obtain ⟨e, he, hrefuses⟩ := argWord_name_refused hx
      exact ⟨x, e, List.mem_cons_self, argWords_cons_of_error he, hrefuses⟩
    case pos =>
      obtain ⟨w, hw⟩ := ha
      obtain ⟨x, e, hmem, he, hrefuses⟩ := ih <| by
        obtain ⟨x, hmem, hx⟩ := h
        refine ⟨x, (List.mem_cons.mp hmem).resolve_left ?_, hx⟩
        rintro rfl
        cases hw with
        | name _ _ hv => exact hx w hv
      exact ⟨x, e, List.mem_cons_of_mem a hmem, argWords_cons_of_rest_error hw he, hrefuses⟩

end

/-- Settles O53: a line is refused for its leftmost name without an OK result. -/
theorem callerErrorsAreRefused : Obligations.CallerErrorsAreRefused := by
  intro s rest hf
  refine ⟨fun hp => ?indefinite, fun l hp hwf hbad => ?line⟩
  case indefinite => rw [step_of_action hf hp]; rfl
  case line =>
    obtain ⟨x, e, hmem, he, hrefuses⟩ := argWords_refused hbad
    have hstep := step_of_line_error hf hp (lineRequest_of_argWords_error hwf he)
    refine ⟨x, hmem, ?_⟩
    obtain ⟨hx, rfl⟩ | ⟨o, hx, ho, rfl⟩ := hrefuses
    · exact .inl ⟨hx, hstep⟩
    · exact .inr ⟨o, hx, ho, hstep⟩

end Sys2Proof.Machine
end

section
/-! PROOFS. The numbers of the textual form, written and read back (30_encoding.md R44). -/

namespace Sys2Proof.Machine

/-! ### Digits in any base -/

/-- The digits of `n` in a base, at most `fuel` of them, each written by `char`: what the decimal and the hexadecimal form
have in common. -/
def digitsOf (char : Nat → Char) (base : Nat) : Nat → Nat → List Char → List Char
  | 0,        _, tail => tail
  | fuel + 1, n, tail =>
    if n < base then char (n % base) :: tail else digitsOf char base fuel (n / base) (char (n % base) :: tail)

/-- A decimal digit, as `decimalOf` writes it. -/
def decChar (d : Nat) : Char := Char.ofNat ('0'.toNat + d)

theorem decimalOf_eq_digitsOf (fuel n : Nat) (tail : List Char) :
    decimalOf fuel n tail = digitsOf decChar 10 fuel n tail := by
  induction fuel generalizing n tail with
  | zero => rfl
  | succ fuel ih => simp only [decimalOf, digitsOf, ih, decChar]

theorem hexadecimalOf_eq_digitsOf (fuel n : Nat) (tail : List Char) :
    hexadecimalOf fuel n tail = digitsOf hexChar 16 fuel n tail := by
  induction fuel generalizing n tail with
  | zero => rfl
  | succ fuel ih => simp only [hexadecimalOf, digitsOf, ih]

section
variable {char : Nat → Char} {digit : Char → Option Nat} {base : Nat}

theorem readDigits_cons {c : Char} {d : Nat} (h : digit c = some d) (acc : Nat) (cs : List Char) :
    readDigits digit base acc (c :: cs) = readDigits digit base (base * acc + d) cs := by
  simp only [readDigits, h]

/-- Reading the digits of a number that they hold, and then the rest, is reading the rest after the number. -/
theorem readDigits_digitsOf (hbase : 0 < base) (hdigit : ∀ d < base, digit (char d) = some d) (fuel : Nat) :
    ∀ (n : Nat) (tail : List Char), n < base ^ fuel →
      readDigits digit base 0 (digitsOf char base fuel n tail) = readDigits digit base n tail := by
  induction fuel with
  | zero =>
    intro n tail hn
    rw [Nat.lt_one_iff.mp hn, digitsOf]
  | succ fuel ih =>
    intro n tail hn
    have hlast := hdigit (n % base) (Nat.mod_lt n hbase)
    rw [digitsOf]
    split
    next hsmall => rw [readDigits_cons hlast, Nat.mul_zero, Nat.zero_add, Nat.mod_eq_of_lt hsmall]
    next =>
      rw [ih _ _ (Nat.div_lt_of_lt_mul (by rwa [Nat.pow_succ'] at hn)), readDigits_cons hlast, Nat.div_add_mod]

/-- Every character written is a digit or stands after the number. -/
theorem forall_mem_digitsOf {P : Char → Prop} (hbase : 0 < base) (hchar : ∀ d < base, P (char d)) (fuel : Nat) :
    ∀ (n : Nat) (tail : List Char), (∀ c ∈ tail, P c) → ∀ c ∈ digitsOf char base fuel n tail, P c := by
  induction fuel with
  | zero => exact fun _ _ h => h
  | succ fuel ih =>
    intro n tail htail
    have hcons := List.forall_mem_cons.mpr ⟨hchar (n % base) (Nat.mod_lt n hbase), htail⟩
    rw [digitsOf]
    split
    next => exact hcons
    next => exact ih _ _ hcons

theorem digitsOf_ne_nil (fuel n : Nat) {tail : List Char} (h : fuel ≠ 0 ∨ tail ≠ []) :
    digitsOf char base fuel n tail ≠ [] := by
  induction fuel generalizing n tail with
  | zero => exact h.resolve_left (absurd rfl)
  | succ fuel ih =>
    rw [digitsOf]
    split
    next => exact List.cons_ne_nil _ _
    next => exact ih _ (.inr (List.cons_ne_nil _ _))

/-- A number that the digits hold is read back from them. -/
theorem readNat_digitsOf (hbase : 0 < base) (hdigit : ∀ d < base, digit (char d) = some d) {fuel n : Nat}
    (hfuel : fuel ≠ 0) (hn : n < base ^ fuel) : readNat digit base (digitsOf char base fuel n []) = some n := by
  have hread := readDigits_digitsOf hbase hdigit fuel n [] hn
  have hne := digitsOf_ne_nil (char := char) (base := base) fuel n (tail := []) (.inl hfuel)
  cases hcs : digitsOf char base fuel n [] with
  | nil => exact absurd hcs hne
  | cons c cs => rw [readNat, ← hcs, hread, readDigits]

end

/-! ### The two bases of the textual form -/

theorem decDigit_decChar : ∀ d < 10, decDigit (decChar d) = some d := by decide
theorem hexDigit_hexChar : ∀ d < 16, hexDigit (hexChar d) = some d := by decide
theorem isDigit_decChar : ∀ d < 10, (decChar d).isDigit = true := by decide

section
variable {n : Nat} (h : n < 2 ^ 64)
include h

theorem readNat_decimal : readNat decDigit 10 (decimal n) = some n := by
  rw [decimal, decimalOf_eq_digitsOf]
  exact readNat_digitsOf (by decide) decDigit_decChar (by decide) (Nat.lt_trans h (by decide))

theorem readNat_hexadecimalOf : readNat hexDigit 16 (hexadecimalOf 16 n []) = some n := by
  rw [hexadecimalOf_eq_digitsOf]
  exact readNat_digitsOf (by decide) hexDigit_hexChar (by decide) (Nat.lt_of_lt_of_eq h (by decide))

end

theorem isDigit_of_mem_decimal {n : Nat} {c : Char} (h : c ∈ decimal n) : c.isDigit = true := by
  rw [decimal, decimalOf_eq_digitsOf] at h
  exact forall_mem_digitsOf (P := fun c => c.isDigit = true) (by decide) isDigit_decChar 20 n []
    (List.forall_mem_nil _) c h

/-! ### Arguments -/

/-- Digits alone are read as a decimal: neither the minus sign nor the `x` of `0x` is a digit. -/
theorem readArg_of_digits {cs : List Char} {n : Nat} (hdigits : ∀ c ∈ cs, c.isDigit = true)
    (hread : readNat decDigit 10 cs = some n) : readArg cs = .ok (.dec n) := by
  unfold readArg
  split
  next => exact absurd (hdigits '-' (by simp)) (by decide)
  next => exact absurd (hdigits 'x' (by simp)) (by decide)
  next => simp only [hread]

theorem readArg_neg {ds : List Char} {n : Nat} (hread : readNat decDigit 10 ds = some n) :
    readArg ('-' :: ds) = .ok (.neg n) := by
  simp only [readArg, hread]

theorem readArg_hex {ds : List Char} {n : Nat} (hread : readNat hexDigit 16 ds = some n) :
    readArg ('0' :: 'x' :: ds) = .ok (.hex n) := by
  simp only [readArg, hread]

/-- Settles O60: twenty decimal digits and sixteen hexadecimal ones hold every number below 2^64. -/
theorem writtenNumbersReadBack : Obligations.WrittenNumbersReadBack := fun _ hn =>
  ⟨readArg_of_digits (fun _ => isDigit_of_mem_decimal) (readNat_decimal hn), readArg_hex (readNat_hexadecimalOf hn),
    readArg_neg (readNat_decimal hn)⟩

end Sys2Proof.Machine
end

section
/-! PROOFS. The barrel shifter's arithmetic shift, masks and truncation, and the two parts of a Word at a place
(40_barrel_shifter.md R47, R49, R56, R57). -/

namespace Sys2Proof.Machine

theorem amount_le (n : Amount) : n.val ≤ 64 := Nat.le_of_lt_succ n.isLt

theorem val_ne_zero_iff {n : Amount} : n.val ≠ 0 ↔ n ≠ 0 := by
  rw [ne_eq, ne_eq, Fin.ext_iff]; rfl

/-! ### The arithmetic shift (R47) -/

section
variable (x : Word) (n : Amount)

theorem valS_asr : valS (asr x n) = Int.fdiv (valS x) (2 ^ n.val) := by
  rw [valS_eq_toInt, valS_eq_toInt, asr, BitVec.toInt_sshiftRight, Int.shiftRight_eq_div_pow,
    Int.fdiv_eq_ediv_of_nonneg _ (by positivity), Nat.cast_pow, Nat.cast_ofNat]

@[simp] theorem tc64_valS : tc64 (valS x) = x := by
  rw [tc64, valS_eq_toInt, BitVec.ofInt_toInt]

@[simp] theorem asr_zero : asr x 0 = x := BitVec.sshiftRight_zero

/-- A shift that leaves no bit of `x` below the copies of its sign. -/
theorem asr_sixtyFour : asr x 64 = if x.getLsbD 63 then BitVec.allOnes 64 else 0#64 := by
  apply BitVec.eq_of_getLsbD_eq
  intro i hi
  have hplace : ¬(64 : Amount).val + i < 64 := Nat.not_lt.mpr (Nat.le_add_right 64 i)
  rw [getLsbD_asr, decide_eq_true hi, Bool.true_and, if_neg hplace]
  split
  next h => rw [h, BitVec.getLsbD_allOnes, decide_eq_true hi]
  next h => rw [Bool.eq_false_of_not_eq_true h, BitVec.getLsbD_zero]

theorem asr_allOnes : asr (BitVec.allOnes 64) n = BitVec.allOnes 64 := by
  apply BitVec.eq_of_getLsbD_eq
  intro i hi
  rw [getLsbD_asr, decide_eq_true hi, Bool.true_and, BitVec.getLsbD_allOnes, BitVec.getLsbD_allOnes,
    BitVec.getLsbD_allOnes, decide_eq_true hi]
  split
  next h => exact decide_eq_true h
  next => rfl

end

/-- Settles O10: Lean's arithmetic shift of the signed reading is floor division, and every place that the shift empties
takes the sign. -/
theorem asrFillsWithSign : Obligations.AsrFillsWithSign := by
  intro x n
  refine ⟨?number, fun i hi => ?bit, asr_zero x, asr_sixtyFour x, asr_allOnes n⟩
  case number => rw [← valS_asr, tc64_valS]
  case bit =>
    have hplace : i + n.val < 64 ↔ i + n.val ≤ 63 := by omega
    rw [getLsbD_asr, decide_eq_true hi, Bool.true_and]
    simp only [Nat.add_comm n.val, hplace]

/-! ### Masks and truncation (R49, R57) -/

section
variable (v : Word) (w : Amount) (i : Nat)

theorem getLsbD_mask : (mask w).getLsbD i = decide (i < w.val) := by
  have hw := amount_le w
  have hplace : 64 - w.val + i < 64 ↔ i < w.val := by omega
  rw [mask, getLsbD_lsr, BitVec.getLsbD_allOnes, complement_val]
  exact decide_eq_decide.mpr hplace

theorem getLsbD_trunc : (trunc v w).getLsbD i = (decide (i < w.val) && v.getLsbD i) := by
  rw [trunc, BitVec.getLsbD_and, getLsbD_mask, Bool.and_comm]

/-- Truncation is Lean's, to `w` bits and back to a Word. -/
theorem trunc_eq_setWidth : trunc v w = (v.setWidth w.val).setWidth 64 := by
  apply BitVec.eq_of_getLsbD_eq
  intro i hi
  rw [getLsbD_trunc, BitVec.getLsbD_setWidth, BitVec.getLsbD_setWidth, decide_eq_true hi, Bool.true_and]

theorem toNat_trunc : (trunc v w).toNat = v.toNat % 2 ^ w.val := by
  have hlt : v.toNat % 2 ^ w.val < 2 ^ 64 := Nat.lt_of_le_of_lt (Nat.mod_le _ _) v.isLt
  rw [trunc_eq_setWidth, BitVec.toNat_setWidth, BitVec.toNat_setWidth, Nat.mod_eq_of_lt hlt]

theorem mask_eq_setWidth : mask w = (BitVec.allOnes w.val).setWidth 64 := by
  apply BitVec.eq_of_getLsbD_eq
  intro i hi
  rw [getLsbD_mask, BitVec.getLsbD_setWidth, decide_eq_true hi, Bool.true_and, BitVec.getLsbD_allOnes]

theorem toNat_mask : (mask w).toNat = 2 ^ w.val - 1 := by
  have hpow : 2 ^ w.val ≤ 2 ^ 64 := Nat.pow_le_pow_right (by decide) (amount_le w)
  have hpos : 0 < 2 ^ w.val := by positivity
  rw [mask_eq_setWidth, BitVec.toNat_setWidth, BitVec.toNat_allOnes, Nat.mod_eq_of_lt (by omega)]

/-- Both readings of a Word are the same number modulo 2^w, since they differ by a multiple of 2^64. -/
theorem valS_emod : valS v % 2 ^ w.val = ((v.toNat % 2 ^ w.val : Nat) : Int) := by
  have hdvd : 2 ^ w.val ∣ 2 ^ 64 := Nat.pow_dvd_pow 2 (amount_le w)
  have hmod := Int.bmod_emod (x := valS v) (m := 2 ^ w.val)
  rw [valS_eq_toInt, BitVec.toInt_eq_toNat_bmod, Int.bmod_bmod_of_dvd hdvd, Int.bmod_emod] at hmod
  rw [valS_eq_toInt, BitVec.toInt_eq_toNat_bmod]
  push_cast at hmod ⊢
  exact hmod.symm

@[simp] theorem trunc_zero : trunc v 0 = 0#64 := by
  apply BitVec.eq_of_getLsbD_eq
  intro i _
  simp [getLsbD_trunc]

@[simp] theorem trunc_sixtyFour : trunc v 64 = v := by
  apply BitVec.eq_of_getLsbD_eq
  intro i hi
  rw [getLsbD_trunc]
  simp [hi]

/-- The left shift drops the bits from place `w` up, and the right shift brings the others back. -/
theorem lsr_shl_complement : lsr (shl v (complement w)) (complement w) = trunc v w := by
  apply BitVec.eq_of_getLsbD_eq
  intro i hi
  rw [getLsbD_lsr, complement_val, getLsbD_trunc]
  by_cases hiw : i < w.val
  case pos => rw [getLsbD_shl_complement v hiw, decide_eq_true hiw, Bool.true_and]
  case neg => rw [BitVec.getLsbD_of_ge _ _ (by omega), decide_eq_false hiw, Bool.false_and]

end

/-- Settles O11: a right shift by `64 - w` leaves ones at the `w` lowest places alone. -/
theorem maskSetsBitsBelowWidth : Obligations.MaskSetsBitsBelowWidth := fun w =>
  ⟨fun i _ => getLsbD_mask w i, toNat_mask w, rfl, complement_val w⟩

/-- Settles O12: the low `w` bits are the rest of either reading modulo 2^w. -/
theorem truncKeepsLowBits : Obligations.TruncKeepsLowBits := by
  intro v w
  refine ⟨rfl, toNat_trunc v w, ?signed, trunc_zero v, trunc_sixtyFour v, (lsr_shl_complement v w).symm⟩
  case signed => rw [valS_emod, valU, toNat_trunc]

/-! ### The parts of a Word above and below a place (R56) -/

section
variable (word : Word) (e : Amount)

theorem getLsbD_left {i : Nat} (hi : i < 64) : (left word e).getLsbD i = (decide (e.val ≤ i) && word.getLsbD i) := by
  rw [left, getLsbD_shl, decide_eq_true hi, Bool.true_and, getLsbD_lsr]
  by_cases he : e.val ≤ i
  case pos => simp [he, Nat.add_sub_cancel' he]
  case neg => simp [he, Nat.not_le.mp he]

theorem right_eq_trunc : right word e = trunc word e := lsr_shl_complement word e

theorem left_eq_and_not_mask : left word e = word &&& ~~~(mask e) := by
  apply BitVec.eq_of_getLsbD_eq
  intro i hi
  rw [getLsbD_left word e hi, BitVec.getLsbD_and, BitVec.getLsbD_not, getLsbD_mask, Bool.and_comm,
    decide_eq_true hi, Bool.true_and, ← decide_not]
  simp only [Nat.not_lt]

end

/-- Settles O15: the part below a place is the truncation there, and the part above it the bits that a truncation drops. -/
theorem leftAndRightPartAWord : Obligations.LeftAndRightPartAWord := by
  intro word e
  refine ⟨fun i hi => getLsbD_left word e hi, fun i _ => ?rightBit, left_eq_and_not_mask word e,
    right_eq_trunc word e, ?leftEnd, ?leftWhole, ?rightEnd, ?rightWhole⟩
  case rightBit => rw [right_eq_trunc, getLsbD_trunc]
  case leftEnd => rw [left, lsr_sixtyFour, shl_sixtyFour]
  case leftWhole => rw [left, lsr_zero, shl_zero]
  case rightEnd => rw [right_eq_trunc, trunc_zero]
  case rightWhole => rw [right_eq_trunc, trunc_sixtyFour]

end Sys2Proof.Machine
end

section
/-! PROOFS. The validity checks as numbers, and their seven-bit hardware form (40_barrel_shifter.md R53, R54, R55). -/

namespace Sys2Proof.Machine

/-- Settles O16: the decided policy adds nothing to the two inequalities. -/
theorem validityChecksCompareNaturals : Obligations.ValidityChecksCompareNaturals := by
  intro width lsb
  refine ⟨descOk_iff_le, widthOk_iff, fun h => ?_⟩
  obtain ⟨-, hsum⟩ := descOk_iff_le.mp h
  omega

section
variable (x : Word)

/-- The high 57 bits are the number divided by 2^7. -/
theorem high_bits_eq_zero_iff : x.extractLsb' 7 57 = 0#57 ↔ x.toNat < 128 := by
  have hlt : x.toNat / 128 < 2 ^ 57 := by have := x.isLt; omega
  rw [BitVec.toNat_eq, BitVec.extractLsb'_toNat, Nat.shiftRight_eq_div_pow, Nat.mod_eq_of_lt hlt, BitVec.toNat_ofNat]
  omega

/-- The low seven bits are the number modulo 2^7. -/
theorem toNat_low_bits : (x.extractLsb' 0 7).toNat = x.toNat % 128 := by
  rw [BitVec.extractLsb'_toNat, Nat.shiftRight_zero]

end

/-- The sum of two seven-bit numbers does not wrap in eight bits. -/
theorem toNat_sum_low_bits (x y : Word) :
    ((x.extractLsb' 0 7).setWidth 8 + (y.extractLsb' 0 7).setWidth 8 : BitVec 8).toNat =
      x.toNat % 128 + y.toNat % 128 := by
  rw [BitVec.toNat_add, BitVec.toNat_setWidth, BitVec.toNat_setWidth, toNat_low_bits, toNat_low_bits]
  omega

/-- Settles O17: where the high bits are zero the low seven bits are the number, and where they are not it exceeds 64. -/
theorem hardwareChecksAgree : Obligations.HardwareChecksAgree := by
  intro width lsb
  constructor
  · rw [Bool.eq_iff_iff, descOk_iff]
    simp only [descOkHardware, Bool.and_eq_true, decide_eq_true_eq, high_bits_eq_zero_iff, toNat_sum_low_bits]
    omega
  · rw [Bool.eq_iff_iff, widthOk_iff]
    simp only [widthOkHardware, Bool.and_eq_true, decide_eq_true_eq, high_bits_eq_zero_iff, toNat_low_bits]
    omega

end Sys2Proof.Machine
end

section
/-! PROOFS. The two fit predicates: their datapaths decide their ranges, so they meet their contracts; the edge widths, the
boundary values, and how the two are related (41_fit_predicates.md R60 to R68). -/

namespace Sys2Proof.Machine

/-! ### The ranges (R60, R62) -/

section
variable {value : Word} {w : Nat}

theorem fitsUnsignedSpec_iff : fitsUnsignedSpec value w = true ↔ w ≠ 0 ∧ valU value ≤ 2 ^ w - 1 := by
  rw [fitsUnsignedSpec, Bool.and_eq_true, decide_eq_true_eq, decide_eq_true_eq]

theorem fitsUnsignedSpec_iff_lt : fitsUnsignedSpec value w = true ↔ w ≠ 0 ∧ value.toNat < 2 ^ w := by
  rw [fitsUnsignedSpec_iff, valU, ← Nat.lt_iff_le_pred (by positivity)]

theorem fitsSignedSpec_iff : fitsSignedSpec value w = true ↔
    w ≠ 0 ∧ -(2 : Int) ^ (w - 1) ≤ valS value ∧ valS value ≤ (2 : Int) ^ (w - 1) - 1 := by
  rw [fitsSignedSpec, Bool.and_eq_true, Bool.and_eq_true, decide_eq_true_eq, decide_eq_true_eq, decide_eq_true_eq,
    and_assoc]

end

/-! ### The datapaths (R61, R63) -/

section
variable (value : Word) (w : Amount)

theorem lsr_eq_zero_iff : lsr value w = 0#64 ↔ value.toNat < 2 ^ w.val := by
  rw [BitVec.toNat_eq, toNat_lsr, BitVec.toNat_ofNat, Nat.zero_mod, Nat.div_eq_zero_iff]
  exact or_iff_right (by positivity)

/-- No bit is lost by truncation exactly where none is above. -/
theorem trunc_eq_self_iff : trunc value w = value ↔ value.toNat < 2 ^ w.val := by
  rw [BitVec.toNat_eq, toNat_trunc, Nat.mod_eq_iff_lt (by positivity)]

theorem and_not_mask_eq_zero_iff : value &&& ~~~(mask w) = 0#64 ↔ value.toNat < 2 ^ w.val := by
  rw [← left_eq_and_not_mask, ← lsr_eq_zero_iff, left]
  constructor
  · intro h
    apply BitVec.eq_of_getLsbD_eq
    intro i hi
    rw [getLsbD_lsr, BitVec.getLsbD_zero]
    by_cases hplace : w.val + i < 64
    case neg => exact BitVec.getLsbD_of_ge _ _ (Nat.not_lt.mp hplace)
    case pos =>
      have hbit := congrArg (BitVec.getLsbD · (w.val + i)) h
      rw [← left, getLsbD_left _ _ hplace, BitVec.getLsbD_zero, decide_eq_true (Nat.le_add_right _ _)] at hbit
      exact hbit
  · intro h
    rw [h, shl, BitVec.zero_shiftLeft]

end

section
variable (value : Word) {w : Amount} (h : w ≠ 0)

/-- The sign extension reads `value` modulo 2^w, in the signed range of `w` bits. -/
theorem valS_sext_eq_bmod : valS (sext value w h) = (valS value).bmod (2 ^ w.val) := by
  have hdvd : 2 ^ w.val ∣ 2 ^ 64 := Nat.pow_dvd_pow 2 (amount_le w)
  rw [valS_eq_toInt, sext_eq_signExtend, BitVec.toInt_signExtend_of_le (amount_le w), BitVec.toInt_setWidth,
    valS_eq_toInt, BitVec.toInt_eq_toNat_bmod value, Int.bmod_bmod_of_dvd hdvd]

theorem valS_inj {x y : Word} : valS x = valS y ↔ x = y := by
  rw [valS_eq_toInt, valS_eq_toInt, BitVec.toInt_inj]

/-- The extension keeps a value exactly where it is in the range that the extension reaches. -/
theorem sext_eq_self_iff_range : sext value w h = value ↔
    -(2 : Int) ^ (w.val - 1) ≤ valS value ∧ valS value ≤ (2 : Int) ^ (w.val - 1) - 1 := by
  have hpow : ((2 ^ w.val : Nat) : Int) = 2 * 2 ^ (w.val - 1) := by
    rw [Nat.cast_pow, Nat.cast_ofNat, ← pow_succ', Nat.sub_add_cancel (amount_pos_of_ne_zero h)]
  have hpos : 0 < 2 ^ w.val := by positivity
  rw [← valS_inj, valS_sext_eq_bmod]
  constructor
  · intro hself
    have hge := Int.le_bmod (x := valS value) hpos
    have hlt := Int.bmod_lt (x := valS value) hpos
    rw [hself, hpow] at hge hlt
    omega
  · rintro ⟨hge, hle⟩
    apply Int.bmod_eq_of_le <;> rw [hpow] <;> omega

theorem sext_eq_self_iff_bits : sext value w h = value ↔
    ∀ i, w.val - 1 ≤ i → i < 64 → value.getLsbD i = value.getLsbD 63 := by
  have hw := amount_le w
  have hpos := amount_pos_of_ne_zero h
  constructor
  · intro hself
    have hsign : ∀ i, w.val - 1 ≤ i → i < 64 → value.getLsbD i = value.getLsbD (w.val - 1) := by
      intro i hwi hi
      rw [← congrArg (BitVec.getLsbD · i) hself]
      simp only [getLsbD_sext value h hi]
      split
      next hiw => rw [Nat.le_antisymm (Nat.le_sub_one_of_lt hiw) hwi]
      next => rfl
    intro i hwi hi
    rw [hsign i hwi hi, hsign 63 (by omega) (by decide)]
  · intro hbits
    apply BitVec.eq_of_getLsbD_eq
    intro i hi
    rw [getLsbD_sext value h hi]
    split
    next => rfl
    next hiw => rw [hbits i (by omega) hi, hbits (w.val - 1) (Nat.le_refl _) (by omega)]

end

/-- Settles O28: shifting out, masking and bounding a value are one condition, and so are extending it, bounding it and
comparing its bits from the sign up. -/
theorem fitDatapathsDecideRanges : Obligations.FitDatapathsDecideRanges := by
  intro value w h
  have hbound : value.toNat < 2 ^ w.val ↔ valU value ≤ 2 ^ w.val - 1 := Nat.lt_iff_le_pred (by positivity)
  exact ⟨(lsr_eq_zero_iff value w).trans hbound, (and_not_mask_eq_zero_iff value w).trans hbound,
    sext_eq_self_iff_range value h, sext_eq_self_iff_bits value h⟩

/-! ### The predicates meet their contracts (R60, R62) -/

section
variable (value : Word) (w : Amount)

theorem fitsUnsignedBit_eq_spec : fitsUnsignedBit value w = fitsUnsignedSpec value w.val := by
  rw [Bool.eq_iff_iff, fitsUnsignedSpec_iff_lt, ← lsr_eq_zero_iff, val_ne_zero_iff, fitsUnsignedBit]
  by_cases h : w = 0 <;> simp [h]

theorem fitsSignedBit_eq_spec : fitsSignedBit value w = fitsSignedSpec value w.val := by
  rw [Bool.eq_iff_iff, fitsSignedSpec_iff, val_ne_zero_iff, fitsSignedBit]
  by_cases h : w = 0
  case pos => simp [h]
  case neg => rw [dif_neg h, beq_iff_eq, sext_eq_self_iff_range, and_iff_right h]

end

theorem fitsUnsigned_eq_contract (value width : Word) :
    fitsUnsigned value width = fitsUnsignedContract value width := by
  cases hw : widthOk width with
  | false => rw [fitsUnsigned_of_malformed value hw, fitsUnsignedContract, hw]; rfl
  | true =>
    obtain ⟨w, hcheck, hval⟩ := exists_width hw
    rw [fitsUnsigned_of_width value hcheck, fitsUnsignedBit_eq_spec, hval, fitsUnsignedContract, if_pos hw]

theorem fitsSigned_eq_contract (value width : Word) : fitsSigned value width = fitsSignedContract value width := by
  cases hw : widthOk width with
  | false => rw [fitsSigned_of_malformed value hw, fitsSignedContract, hw]; rfl
  | true =>
    obtain ⟨w, hcheck, hval⟩ := exists_width hw
    rw [fitsSigned_of_width value hcheck, fitsSignedBit_eq_spec, hval, fitsSignedContract, if_pos hw]

section
variable {value width : Word}

theorem fitsUnsigned_of_le (h : valU width ≤ 64) :
    fitsUnsigned value width = .ok (boolResult (fitsUnsignedSpec value (valU width))) := by
  rw [fitsUnsigned_eq_contract, fitsUnsignedContract, if_pos (widthOk_iff.mpr h)]

theorem fitsSigned_of_le (h : valU width ≤ 64) :
    fitsSigned value width = .ok (boolResult (fitsSignedSpec value (valU width))) := by
  rw [fitsSigned_eq_contract, fitsSignedContract, if_pos (widthOk_iff.mpr h)]

end

theorem ok_boolResult_eq_one_iff {b : Bool} : Response.ok (boolResult b) = .ok 1#64 ↔ b = true := by
  cases b <;> decide

theorem ok_boolResult_eq_zero_iff {b : Bool} : Response.ok (boolResult b) = .ok 0#64 ↔ b = false := by
  cases b <;> decide

/-- A predicate's answer is the truth of its condition. -/
theorem boolResult_of_iff {b : Bool} {p : Prop} [Decidable p] (h : b = true ↔ p) :
    boolResult b = if p then 1#64 else 0#64 := by
  simp only [boolResult, h]

theorem widthOk_eq_false {width : Word} (h : 64 < valU width) : widthOk width = false :=
  decide_eq_false (Nat.not_le.mpr h)

/-- Settles O19: the contract is the datapath's answer, and a greater width fails the check. -/
theorem fitsUnsignedMeetsContract : Obligations.FitsUnsignedMeetsContract := by
  rintro s r w hv hop rfl
  refine ⟨decodeRequest_eq_fitsUnsigned hv hop, fun h => answers_of_exec ?_ rfl,
    fun h => (endsFatal_fits r.value s (widthOk_eq_false h)).1⟩
  rw [exec_fitsUnsigned, fitsUnsigned_of_le h, boolResult_of_iff fitsUnsignedSpec_iff]

/-- Settles O20: the contract is the datapath's answer, and a greater width fails the check. -/
theorem fitsSignedMeetsContract : Obligations.FitsSignedMeetsContract := by
  rintro s r w hv hop rfl
  refine ⟨decodeRequest_eq_fitsSigned hv hop, fun h => answers_of_exec ?_ rfl,
    fun h => (endsFatal_fits r.value s (widthOk_eq_false h)).2⟩
  rw [exec_fitsSigned, fitsSigned_of_le h, boolResult_of_iff fitsSignedSpec_iff]

/-! ### The edge widths and the boundary values (R64 to R67) -/

section
variable (value : Word)

theorem valS_range : -(2 : Int) ^ 63 ≤ valS value ∧ valS value ≤ (2 : Int) ^ 63 - 1 := by
  have hge := BitVec.le_toInt value
  have hlt := BitVec.toInt_lt (x := value)
  rw [valS_eq_toInt]
  omega

@[simp] theorem fitsUnsignedSpec_sixtyFour : fitsUnsignedSpec value 64 = true :=
  fitsUnsignedSpec_iff_lt.mpr ⟨by decide, value.isLt⟩

@[simp] theorem fitsSignedSpec_sixtyFour : fitsSignedSpec value 64 = true :=
  fitsSignedSpec_iff.mpr ⟨by decide, valS_range value⟩

end

/-- Settles O29: no value is in the empty range of width 0, and every value in both ranges of width 64. -/
theorem fitPredicatesAtEdgeWidths : Obligations.FitPredicatesAtEdgeWidths := by
  intro s value width
  refine ⟨⟨answers_of_exec ?_ rfl, answers_of_exec ?_ rfl⟩, ⟨answers_of_exec ?_ rfl, answers_of_exec ?_ rfl⟩,
    fun h => endsFatal_fits value s (widthOk_eq_false h)⟩
  · rw [exec_fitsUnsigned, fitsUnsigned_of_le (by decide)]; rfl
  · rw [exec_fitsSigned, fitsSigned_of_le (by decide)]; rfl
  · rw [exec_fitsUnsigned, fitsUnsigned_of_le (by decide), show valU 64#64 = 64 from rfl, fitsUnsignedSpec_sixtyFour]
    rfl
  · rw [exec_fitsSigned, fitsSigned_of_le (by decide), show valU 64#64 = 64 from rfl, fitsSignedSpec_sixtyFour]
    rfl

section
variable {value width : Word} (h : valU width ≤ 64)
include h

theorem fitsUnsigned_eq_one_iff :
    fitsUnsigned value width = .ok 1#64 ↔ valU width ≠ 0 ∧ value.toNat < 2 ^ valU width := by
  rw [fitsUnsigned_of_le h, ok_boolResult_eq_one_iff, fitsUnsignedSpec_iff_lt]

theorem fitsUnsigned_eq_zero_iff :
    fitsUnsigned value width = .ok 0#64 ↔ ¬(valU width ≠ 0 ∧ value.toNat < 2 ^ valU width) := by
  rw [fitsUnsigned_of_le h, ok_boolResult_eq_zero_iff, ← Bool.not_eq_true, fitsUnsignedSpec_iff_lt]

theorem fitsSigned_eq_one_iff : fitsSigned value width = .ok 1#64 ↔ valU width ≠ 0 ∧
    -(2 : Int) ^ (valU width - 1) ≤ valS value ∧ valS value ≤ (2 : Int) ^ (valU width - 1) - 1 := by
  rw [fitsSigned_of_le h, ok_boolResult_eq_one_iff, fitsSignedSpec_iff]

theorem fitsSigned_eq_zero_iff : fitsSigned value width = .ok 0#64 ↔ ¬(valU width ≠ 0 ∧
    -(2 : Int) ^ (valU width - 1) ≤ valS value ∧ valS value ≤ (2 : Int) ^ (valU width - 1) - 1) := by
  rw [fitsSigned_of_le h, ok_boolResult_eq_zero_iff, ← Bool.not_eq_true, fitsSignedSpec_iff]

end

/-- A number that a Word holds is its unsigned reading. -/
theorem toNat_ofNat_of_lt {n : Nat} (h : n < 2 ^ 64) : (BitVec.ofNat 64 n).toNat = n := by
  rw [BitVec.toNat_ofNat, Nat.mod_eq_of_lt h]

/-- A number in the signed range of a Word is the signed reading of its vector. -/
theorem valS_tc64 {n : Int} (hge : -(2 : Int) ^ 63 ≤ n) (hlt : n < (2 : Int) ^ 63) : valS (tc64 n) = n := by
  rw [valS_eq_toInt, tc64, BitVec.toInt_ofInt_eq_self (by decide) hge hlt]

/-- Settles O30: each boundary is a number of the Word's own range, where the reading gives it back. -/
theorem fitBoundariesAreExact : Obligations.FitBoundariesAreExact := by
  intro w hpos hle
  have hwidth : valU (BitVec.ofNat 64 w) = w := toNat_ofNat_of_lt (by omega)
  have hwidthLe : valU (BitVec.ofNat 64 w) ≤ 64 := hwidth.trans_le hle
  have hpow : 2 ^ w ≤ 2 ^ 64 := Nat.pow_le_pow_right (by decide) hle
  have hpowPos : 0 < 2 ^ w := by positivity
  have hhalf : (2 : Int) ^ (w - 1) ≤ 2 ^ 63 := pow_le_pow_right₀ (by decide) (by omega)
  have hhalfPos : (0 : Int) < 2 ^ (w - 1) := by positivity
  have hsmall (h : w ≤ 63) : 2 ^ w ≤ 2 ^ 63 := Nat.pow_le_pow_right (by decide) h
  have hhalfSmall (h : w ≤ 63) : (2 : Int) ^ (w - 1) ≤ 2 ^ 62 := pow_le_pow_right₀ (by decide) (by omega)
  simp only [fitsUnsigned_eq_one_iff hwidthLe, fitsUnsigned_eq_zero_iff hwidthLe, fitsSigned_eq_one_iff hwidthLe,
    fitsSigned_eq_zero_iff hwidthLe, hwidth]
  refine ⟨?_, fun h => ?_, ?_, fun h => ?_, ?_, fun h => ?_⟩
  · rw [toNat_ofNat_of_lt (by omega)]; omega
  · have := hsmall h
    rw [toNat_ofNat_of_lt (by omega)]; omega
  · rw [valS_tc64 (by omega) (by omega)]; omega
  · have := hhalfSmall h
    rw [valS_tc64 (by omega) (by omega)]; omega
  · rw [valS_tc64 (by omega) (by omega)]; omega
  · have := hhalfSmall h
    rw [valS_tc64 (by omega) (by omega)]; omega

/-! ### How the two predicates are related (R68) -/

section
variable {value : Word}

theorem valS_of_sign_clear (h : value.getLsbD 63 = false) : valS value = value.toNat := by
  simp only [valS, h, Bool.false_eq_true, if_false, mul_zero, sub_zero]

/-- A Word with its top bit set is at least 2^63. -/
theorem le_toNat_of_sign_set (h : value.getLsbD 63 = true) : 2 ^ 63 ≤ value.toNat := by
  rw [BitVec.getLsbD] at h
  exact Nat.ge_two_pow_of_testBit h

end

/-- Settles O31: the ranges grow with the width; without the sign the signed range of `w` bits is the unsigned one of
`w - 1`, and with it only the widest unsigned range holds the value. -/
theorem fitPredicatesAreRelated : Obligations.FitPredicatesAreRelated := by
  intro value width width' hle hle'
  have hwidth : valU width ≤ 64 := hle.trans hle'
  rw [fitsUnsigned_eq_one_iff hwidth, fitsUnsigned_eq_one_iff hle', fitsSigned_eq_one_iff hwidth,
    fitsSigned_eq_one_iff hle']
  refine ⟨?unsigned, ?signed, fun hsign => ?clear, fun hsign => ?set⟩
  case unsigned =>
    rintro ⟨hne, hlt⟩
    exact ⟨by omega, hlt.trans_le (Nat.pow_le_pow_right (by decide) hle)⟩
  case signed =>
    rintro ⟨hne, hge, hlt⟩
    have hpow : (2 : Int) ^ (valU width - 1) ≤ 2 ^ (valU width' - 1) := pow_le_pow_right₀ (by decide) (by omega)
    omega
  case clear =>
    have hpos : (0 : Int) < 2 ^ (valU width - 1) := by positivity
    rw [valS_of_sign_clear hsign]
    rcases Nat.lt_trichotomy (valU width) 1 with hw | hw | hw
    · omega
    · have hzero : value = 0#64 ↔ value.toNat = 0 := BitVec.toNat_eq
      rw [hw, hzero]
      omega
    · have hpred : valU (width - 1#64) = valU width - 1 := by
        have hone : 1#64 ≤ width := BitVec.le_def.mpr (Nat.le_of_lt hw)
        rw [valU, BitVec.toNat_sub_of_le hone]; rfl
      have hcast : ((2 ^ (valU width - 1) : Nat) : Int) = 2 ^ (valU width - 1) := by push_cast; rfl
      rw [fitsUnsigned_eq_one_iff (by omega), hpred]
      omega
  case set =>
    have hge := le_toNat_of_sign_set hsign
    have hlt := value.isLt
    constructor
    · rintro ⟨-, hfits⟩
      have := (Nat.pow_lt_pow_iff_right (by decide)).mp (hge.trans_lt hfits)
      omega
    · intro hw
      rw [hw]
      exact ⟨by decide, hlt⟩

end Sys2Proof.Machine
end

section
/-! PROOFS. The two extractions: bit by bit and as numbers, their contracts, the edge widths, how they are related, and what
they read (42_field_extraction.md R70 to R79; 40_barrel_shifter.md R51). -/

namespace Sys2Proof.Machine

/-! ### The two shifts (R51, R71, R73) -/

section
variable (word : Word) (f : FieldRange)

theorem widthAmount_eq_zero_iff : f.widthAmount = 0 ↔ f.width = 0 := by
  rw [Fin.ext_iff]; rfl

/-- The left shift brings the bits below the field's end to the top. -/
theorem getLsbD_alignTop {i : Nat} (hi : i < f.lsb + f.width) :
    (alignTop word f).getLsbD (64 - (f.lsb + f.width) + i) = word.getLsbD i :=
  getLsbD_shl_complement word (w := f.endAmount) hi

/-- Bit `k` of the field, where the right shift by `64 - width` finds it. -/
theorem getLsbD_alignTop_field {k : Nat} (hk : k < f.width) :
    (alignTop word f).getLsbD (64 - f.width + k) = word.getLsbD (f.lsb + k) := by
  have hfits := f.fits
  rw [← getLsbD_alignTop word f (Nat.add_lt_add_left hk f.lsb)]
  congr 1
  omega

/-- The bit below the field's end is the sign of the aligned Word. -/
theorem getLsbD_alignTop_sign (h : 1 ≤ f.lsb + f.width) :
    (alignTop word f).getLsbD 63 = word.getLsbD (f.lsb + f.width - 1) := by
  have hfits := f.fits
  rw [← getLsbD_alignTop word f (Nat.sub_one_lt_of_lt h)]
  congr 1
  omega

theorem getLsbD_lsr_alignTop (k : Nat) : (lsr (alignTop word f) (complement f.widthAmount)).getLsbD k =
    (decide (k < f.width) && word.getLsbD (f.lsb + k)) := by
  rw [getLsbD_lsr, complement_val, widthAmount_val]
  by_cases hk : k < f.width
  case pos => rw [getLsbD_alignTop_field word f hk, decide_eq_true hk, Bool.true_and]
  case neg => rw [BitVec.getLsbD_of_ge _ _ (by have := f.fits; omega), decide_eq_false hk, Bool.false_and]

/-- Above the field's bits stand copies of the bit below the field's end, which at width 0 is no bit of the field. -/
theorem getLsbD_asr_alignTop (h : 1 ≤ f.lsb + f.width) {k : Nat} (hk : k < 64) :
    (asr (alignTop word f) (complement f.widthAmount)).getLsbD k =
      if k < f.width then word.getLsbD (f.lsb + k) else word.getLsbD (f.lsb + f.width - 1) := by
  have hplace : 64 - f.width + k < 64 ↔ k < f.width := by have := f.fits; omega
  rw [getLsbD_asr, decide_eq_true hk, Bool.true_and, complement_val, widthAmount_val]
  simp only [hplace]
  split
  next hkw => exact getLsbD_alignTop_field word f hkw
  next => exact getLsbD_alignTop_sign word f h

theorem lsr_alignTop_eq_setWidth : lsr (alignTop word f) (complement f.widthAmount) =
    (word.extractLsb' f.lsb f.width).setWidth 64 := by
  apply BitVec.eq_of_getLsbD_eq
  intro k hk
  rw [getLsbD_lsr_alignTop, BitVec.getLsbD_setWidth, BitVec.getLsbD_extractLsb', decide_eq_true hk, Bool.true_and]

theorem asr_alignTop_eq_signExtend (h : 1 ≤ f.width) : asr (alignTop word f) (complement f.widthAmount) =
    (word.extractLsb' f.lsb f.width).signExtend 64 := by
  have htop : f.lsb + (f.width - 1) = f.lsb + f.width - 1 := (Nat.add_sub_assoc h f.lsb).symm
  apply BitVec.eq_of_getLsbD_eq
  intro k hk
  rw [getLsbD_asr_alignTop word f (by omega) hk, BitVec.getLsbD_signExtend, BitVec.msb_eq_getLsbD_last,
    BitVec.getLsbD_extractLsb', BitVec.getLsbD_extractLsb', decide_eq_true hk, Bool.true_and,
    decide_eq_true (Nat.sub_one_lt_of_lt h), Bool.true_and, htop]
  split
  next hkw => rw [decide_eq_true hkw, Bool.true_and]
  next => rfl

end

/-- Settles O14: the right shift finds the field's bits below place `width`, and above them zeros or copies of the bit below
the field's end, which at width 0 is all that is left. -/
theorem twoShiftsExtractField : Obligations.TwoShiftsExtractField := by
  refine ⟨fun word f h => ⟨lsr_alignTop_eq_setWidth word f, asr_alignTop_eq_signExtend word f h⟩,
    fun word f hw hl hbit => ?empty⟩
  case empty =>
    apply BitVec.eq_of_getLsbD_eq
    intro k hk
    rw [getLsbD_asr_alignTop word f (by omega) hk, hw, if_neg (Nat.not_lt_zero k), Nat.add_zero, hbit,
      BitVec.getLsbD_allOnes, decide_eq_true hk]

/-! ### The extractions bit by bit and as numbers (R70, R72) -/

section
variable (word : Word) (f : FieldRange)

theorem getLsbD_extractUnsigned (k : Nat) :
    (extractUnsigned word f).getLsbD k = (decide (k < f.width) && word.getLsbD (f.lsb + k)) := by
  rw [extractUnsigned]
  split
  next hw => rw [BitVec.getLsbD_zero, hw, decide_eq_false (Nat.not_lt_zero k), Bool.false_and]
  next => exact getLsbD_lsr_alignTop word f k

theorem extractSigned_of_pos (h : 1 ≤ f.width) :
    extractSigned word f = asr (alignTop word f) (complement f.widthAmount) :=
  if_neg (Nat.ne_of_gt h)

theorem getLsbD_extractSigned (h : 1 ≤ f.width) {k : Nat} (hk : k < 64) : (extractSigned word f).getLsbD k =
    if k < f.width then word.getLsbD (f.lsb + k) else word.getLsbD (f.lsb + f.width - 1) := by
  rw [extractSigned_of_pos word f h, getLsbD_asr_alignTop word f (by omega) hk]

/-- The unsigned extraction is the field's number. -/
theorem toNat_extractUnsigned : (extractUnsigned word f).toNat = word.toNat / 2 ^ f.lsb % 2 ^ f.width := by
  have h : extractUnsigned word f = trunc (lsr word f.lsbAmount) f.widthAmount := by
    apply BitVec.eq_of_getLsbD_eq
    intro k _
    rw [getLsbD_extractUnsigned, getLsbD_trunc, getLsbD_lsr, widthAmount_val, lsbAmount_val]
  rw [h, toNat_trunc, toNat_lsr, widthAmount_val, lsbAmount_val]

theorem extractSigned_eq_sext (h : f.widthAmount ≠ 0) :
    extractSigned word f = sext (extractUnsigned word f) f.widthAmount h := by
  have hpos : 1 ≤ f.width := amount_pos_of_ne_zero h
  apply BitVec.eq_of_getLsbD_eq
  intro k hk
  rw [getLsbD_extractSigned word f hpos hk, getLsbD_sext _ h hk, getLsbD_extractUnsigned, getLsbD_extractUnsigned,
    widthAmount_val, decide_eq_true (Nat.sub_one_lt_of_lt hpos), Bool.true_and, Nat.add_sub_assoc hpos]
  split
  next hkw => rw [decide_eq_true hkw, Bool.true_and]
  next => rfl

theorem extractUnsigned_eq_trunc (h : 1 ≤ f.width) :
    extractUnsigned word f = trunc (extractSigned word f) f.widthAmount := by
  apply BitVec.eq_of_getLsbD_eq
  intro k hk
  rw [getLsbD_extractUnsigned, getLsbD_trunc, widthAmount_val, getLsbD_extractSigned word f h hk]
  by_cases hkw : k < f.width
  case pos => rw [if_pos hkw]
  case neg => rw [decide_eq_false hkw, Bool.false_and, Bool.false_and]

/-- The signed extraction is the two's-complement reading of the field's number. -/
theorem valS_extractSigned (h : 1 ≤ f.width) : valS (extractSigned word f) =
    if word.toNat / 2 ^ f.lsb % 2 ^ f.width < 2 ^ (f.width - 1) then
      ((word.toNat / 2 ^ f.lsb % 2 ^ f.width : Nat) : Int)
    else ((word.toNat / 2 ^ f.lsb % 2 ^ f.width : Nat) : Int) - 2 ^ f.width := by
  have hne : f.widthAmount ≠ 0 := fun h0 => Nat.ne_of_gt h ((widthAmount_eq_zero_iff f).mp h0)
  rw [extractSigned_eq_sext word f hne, valS_sext, valU, toNat_extractUnsigned, widthAmount_val, Nat.mod_mod]

end

/-! ### The contracts -/

theorem getUnsigned_eq_contract (word width lsb : Word) :
    getUnsigned word width lsb = getUnsignedContract word width lsb := by
  cases hd : descOk width lsb with
  | false => rw [getUnsigned_of_malformed word hd, getUnsignedContract, hd]; rfl
  | true =>
    obtain ⟨f, hf, hw, hl⟩ := exists_field hd
    rw [getUnsigned_of_field word hf, getUnsignedContract, if_pos hd, valU, valU, ← hw, ← hl, extractUnsigned,
      lsr_alignTop_eq_setWidth]
    split <;> rfl

theorem getSigned_eq_contract (word width lsb : Word) :
    getSigned word width lsb = getSignedContract word width lsb := by
  cases hd : descOk width lsb with
  | false => rw [getSigned_of_malformed word hd, getSignedContract, hd]; rfl
  | true =>
    obtain ⟨f, hf, hw, hl⟩ := exists_field hd
    rw [getSigned_of_field word hf, getSignedContract, if_pos hd, valU, valU, ← hw, ← hl, extractSigned]
    split
    next => rfl
    next h => rw [asr_alignTop_eq_signExtend word f (Nat.pos_of_ne_zero h)]

/-- A descriptor that is not within the Word is malformed (R53). -/
theorem descOk_eq_false {width lsb : Word} (h : ¬(valU width ≤ 64 ∧ valU width + valU lsb ≤ 64)) :
    descOk width lsb = false :=
  Bool.eq_false_of_not_eq_true fun hd => h (descOk_iff_le.mp hd)

/-- Settles O21: a well-formed descriptor names a field, whose bits and number the extraction returns. -/
theorem getUnsignedMeetsContract : Obligations.GetUnsignedMeetsContract := by
  rintro s r w l hv hop rfl rfl
  refine ⟨decodeRequest_eq_getUnsigned hv hop, fun h => ?field,
    fun h => (endsFatal_get r.word s (descOk_eq_false h)).1⟩
  case field =>
    obtain ⟨f, hf, hw, hl⟩ := exists_field (descOk_iff_le.mpr h)
    refine ⟨extractUnsigned r.word f, answers_of_exec ?_ rfl, fun k _ => ?bit, ?number⟩
    · rw [exec_getUnsigned, getUnsigned_of_field r.word hf]
    case bit => rw [getLsbD_extractUnsigned, hw, hl]; by_cases hk : k < r.width.toNat <;> simp [hk]
    case number => rw [valU, toNat_extractUnsigned, hw, hl]

/-- Settles O22: a well-formed descriptor names a field, whose bits, sign and signed number the extraction returns; the
empty one is read as 0. -/
theorem getSignedMeetsContract : Obligations.GetSignedMeetsContract := by
  rintro s r w l hv hop rfl rfl
  refine ⟨decodeRequest_eq_getSigned hv hop, fun h => ?field,
    fun h => (endsFatal_get r.word s (descOk_eq_false h)).2⟩
  case field =>
    obtain ⟨f, hf, hw, hl⟩ := exists_field (descOk_iff_le.mpr h)
    refine ⟨extractSigned r.word f, answers_of_exec ?_ rfl, fun h0 => ?empty,
      fun hpos => ⟨fun k hk => ?bit, ?number⟩⟩
    · rw [exec_getSigned, getSigned_of_field r.word hf]
    case empty => exact if_pos (hw.trans h0)
    case bit => rw [getLsbD_extractSigned r.word f (hpos.trans_eq hw.symm) hk, hw, hl]
    case number => rw [valS_extractSigned r.word f (hpos.trans_eq hw.symm), hw, hl]

/-! ### The edge widths (R74, R75) -/

section
variable (word : Word)

theorem get_of_width_sixtyFour :
    getUnsigned word 64#64 0#64 = .ok word ∧ getSigned word 64#64 0#64 = .ok word := by
  have hd : descOk 64#64 0#64 = true := descOk_iff.mpr (by decide)
  have h0 : word.extractLsb' 0 64 = word := BitVec.extractLsb'_eq_self
  rw [getUnsigned_eq_contract, getSigned_eq_contract, getUnsignedContract, getSignedContract, if_pos hd, if_pos hd]
  refine ⟨congrArg Response.ok ?_, congrArg Response.ok ?_⟩
  · exact (BitVec.setWidth_eq _).trans h0
  · exact (BitVec.signExtend_eq _).trans h0

end

/-- Settles O33: the whole Word is one field, and the empty fields are read as 0. -/
theorem extractionAtEdgeWidths : Obligations.ExtractionAtEdgeWidths := by
  intro s word lsb
  refine ⟨⟨answers_of_exec ?_ rfl, answers_of_exec ?_ rfl⟩, fun h => ⟨answers_of_exec ?_ rfl, answers_of_exec ?_ rfl⟩,
    fun width hd hw => ?only⟩
  · rw [exec_getUnsigned, (get_of_width_sixtyFour word).1]
  · rw [exec_getSigned, (get_of_width_sixtyFour word).2]
  · rw [exec_getUnsigned, (get_of_width_zero word h).1]
  · rw [exec_getSigned, (get_of_width_zero word h).2]
  case only =>
    obtain ⟨-, hsum⟩ := descOk_iff_le.mp hd
    have hzero : valU lsb = 0 := by omega
    exact BitVec.eq_of_toNat_eq hzero

/-! ### Each extraction from the other (R77) -/

/-- The two extractions agree exactly where the copies of the field's top bit are zeros, or there is no room for one. -/
theorem extractSigned_eq_extractUnsigned_iff (word : Word) (f : FieldRange) (h : 1 ≤ f.width) :
    extractSigned word f = extractUnsigned word f ↔ word.getLsbD (f.lsb + f.width - 1) = false ∨ f.width = 64 := by
  have hfits := f.fits
  constructor
  · intro heq
    by_cases hw : f.width = 64
    case pos => exact .inr hw
    case neg =>
      have hbit := congrArg (BitVec.getLsbD · f.width) heq
      rw [getLsbD_extractSigned word f h (by omega), getLsbD_extractUnsigned, if_neg (Nat.lt_irrefl _),
        decide_eq_false (Nat.lt_irrefl _), Bool.false_and] at hbit
      exact .inl hbit
  · intro hor
    apply BitVec.eq_of_getLsbD_eq
    intro k hk
    rw [getLsbD_extractSigned word f h hk, getLsbD_extractUnsigned]
    split
    next hkw => rw [decide_eq_true hkw, Bool.true_and]
    next hkw =>
      rw [decide_eq_false hkw, Bool.false_and]
      exact hor.resolve_right (by omega)

/-- Both extractions fail on exactly the malformed descriptors. -/
theorem get_eq_fatal_iff (word width lsb : Word) :
    (getUnsigned word width lsb = .fatal .descriptor ↔ descOk width lsb = false) ∧
    (getSigned word width lsb = .fatal .descriptor ↔ descOk width lsb = false) := by
  cases hd : descOk width lsb with
  | false =>
    exact ⟨iff_of_true (getUnsigned_of_malformed word hd) rfl, iff_of_true (getSigned_of_malformed word hd) rfl⟩
  | true =>
    obtain ⟨f, hf, -⟩ := exists_field hd
    rw [getUnsigned_of_field word hf, getSigned_of_field word hf]
    exact ⟨iff_of_false nofun nofun, iff_of_false nofun nofun⟩

/-- Settles O32: the two extractions have the field's bits in common and differ in the places above them. -/
theorem extractionsAreRelated : Obligations.ExtractionsAreRelated := by
  refine ⟨fun word f h => ?field, fun word width lsb => ⟨?fatal, fun hw => ?empty⟩⟩
  case field =>
    have hpos : 1 ≤ f.width := amount_pos_of_ne_zero h
    exact ⟨extractSigned_eq_sext word f h, extractUnsigned_eq_trunc word f hpos,
      extractSigned_eq_extractUnsigned_iff word f hpos⟩
  case fatal =>
    obtain ⟨hunsigned, hsigned⟩ := get_eq_fatal_iff word width lsb
    exact hunsigned.trans hsigned.symm
  case empty =>
    rw [getUnsigned_eq_contract, getSigned_eq_contract, getUnsignedContract, getSignedContract, if_pos hw, if_pos hw]

/-! ### What is read, and where it fits (R79) -/

section
variable {word word' width lsb : Word}

theorem get_congr (h : ∀ i, valU lsb ≤ i → i < valU lsb + valU width → word.getLsbD i = word'.getLsbD i) :
    getUnsigned word width lsb = getUnsigned word' width lsb ∧
    getSigned word width lsb = getSigned word' width lsb := by
  have hfield : word.extractLsb' (valU lsb) (valU width) = word'.extractLsb' (valU lsb) (valU width) := by
    apply BitVec.eq_of_getLsbD_eq
    intro k hk
    rw [BitVec.getLsbD_extractLsb', BitVec.getLsbD_extractLsb', h _ (Nat.le_add_right _ _) (Nat.add_lt_add_left hk _)]
  simp only [getUnsigned_eq_contract, getSigned_eq_contract, getUnsignedContract, getSignedContract, hfield,
    and_self]

/-- An extraction that is OK is that of a field with the request's numbers. -/
theorem field_of_getUnsigned {x : Word} (h : getUnsigned word width lsb = .ok x) : ∃ f : FieldRange,
    descOk width lsb = true ∧ f.width = valU width ∧ f.lsb = valU lsb ∧ x = extractUnsigned word f := by
  cases hd : descOk width lsb with
  | false => rw [getUnsigned_of_malformed word hd] at h; cases h
  | true =>
    obtain ⟨f, hf, hw, hl⟩ := exists_field hd
    rw [getUnsigned_of_field word hf] at h
    cases h
    exact ⟨f, rfl, hw, hl, rfl⟩

theorem field_of_getSigned {x : Word} (h : getSigned word width lsb = .ok x) : ∃ f : FieldRange,
    descOk width lsb = true ∧ f.width = valU width ∧ f.lsb = valU lsb ∧ x = extractSigned word f := by
  cases hd : descOk width lsb with
  | false => rw [getSigned_of_malformed word hd] at h; cases h
  | true =>
    obtain ⟨f, hf, hw, hl⟩ := exists_field hd
    rw [getSigned_of_field word hf] at h
    cases h
    exact ⟨f, rfl, hw, hl, rfl⟩

end

section
variable (word : Word) (f : FieldRange)

theorem extractUnsigned_lt : (extractUnsigned word f).toNat < 2 ^ f.width := by
  rw [toNat_extractUnsigned]
  exact Nat.mod_lt _ (by positivity)

theorem fitsUnsignedSpec_extractUnsigned (h : 1 ≤ f.width) :
    fitsUnsignedSpec (extractUnsigned word f) f.width = true :=
  fitsUnsignedSpec_iff_lt.mpr ⟨Nat.ne_of_gt h, extractUnsigned_lt word f⟩

/-- The places from the field's top bit up all hold that bit. -/
theorem fitsSignedSpec_extractSigned (h : 1 ≤ f.width) :
    fitsSignedSpec (extractSigned word f) f.width = true := by
  have hne : f.widthAmount ≠ 0 := fun h0 => Nat.ne_of_gt h ((widthAmount_eq_zero_iff f).mp h0)
  have hsign : ∀ k, f.width - 1 ≤ k → k < 64 →
      (extractSigned word f).getLsbD k = word.getLsbD (f.lsb + f.width - 1) := by
    intro k hwk hk
    rw [getLsbD_extractSigned word f h hk]
    split
    next hkw => rw [Nat.le_antisymm (Nat.le_sub_one_of_lt hkw) hwk, Nat.add_sub_assoc h]
    next => rfl
  refine fitsSignedSpec_iff.mpr ⟨Nat.ne_of_gt h, (sext_eq_self_iff_range _ hne).mp ?_⟩
  refine (sext_eq_self_iff_bits _ hne).mpr fun k hwk hk => ?_
  rw [hsign k hwk hk, hsign 63 (by have := f.fits; omega) (by decide)]

end

/-- A well-formed descriptor's width passes the predicates' own check. -/
theorem width_le_of_descOk {width lsb : Word} (h : descOk width lsb = true) : valU width ≤ 64 :=
  (descOk_iff_le.mp h).1

/-- Settles O34: an extraction is made of the field's bits alone, and every place above them is a zero or a copy. -/
theorem extractionReadsOnlyTheField : Obligations.ExtractionReadsOnlyTheField := by
  intro word word' width lsb
  refine ⟨get_congr, fun x hx => ?unsigned, fun x hx hpos => ?signed⟩
  case unsigned =>
    obtain ⟨f, hd, hw, -, rfl⟩ := field_of_getUnsigned hx
    refine ⟨hw ▸ extractUnsigned_lt word f, fun hpos => ?_⟩
    rw [fitsUnsigned_of_le (width_le_of_descOk hd), ← hw, fitsUnsignedSpec_extractUnsigned word f (hw ▸ hpos)]
    rfl
  case signed =>
    obtain ⟨f, hd, hw, -, rfl⟩ := field_of_getSigned hx
    rw [fitsSigned_of_le (width_le_of_descOk hd), ← hw, fitsSignedSpec_extractSigned word f (hw ▸ hpos)]
    rfl

end Sys2Proof.Machine
end

section
/-! PROOFS. The Word an insertion returns, bit by bit and as a number, and what an extraction reads from it
(43_field_insertion.md R80, R82, R89, R90). -/

namespace Sys2Proof.Machine

/-! ### The bits of the inserted Word -/

section
variable (word value : Word) (w l : Nat) {i : Nat}

theorem getLsbD_insertedWord (hi : i < 64) : (insertedWord word w l value).getLsbD i =
    if l ≤ i ∧ i < l + w then value.getLsbD (i - l) else word.getLsbD i := by
  rw [insertedWord, BitVec.getLsbD_ofFnLE, dif_pos hi]

theorem getLsbD_insertedWord_inside (hi : i < w) (hfits : w + l ≤ 64) :
    (insertedWord word w l value).getLsbD (l + i) = value.getLsbD i := by
  rw [getLsbD_insertedWord word value w l (by omega), if_pos (by omega), Nat.add_sub_cancel_left]

theorem getLsbD_insertedWord_outside (hi : i < l ∨ l + w ≤ i) :
    (insertedWord word w l value).getLsbD i = word.getLsbD i := by
  by_cases hlt : i < 64
  case pos => rw [getLsbD_insertedWord word value w l hlt, if_neg (by omega)]
  case neg => rw [BitVec.getLsbD_of_ge _ _ (Nat.not_lt.mp hlt), BitVec.getLsbD_of_ge _ _ (Nat.not_lt.mp hlt)]

end

/-! ### Inserting twice, and inserting what stands there (R92) -/

section
variable (word value value' : Word) (w l w' l' : Nat)

/-- The later of two insertions into one field wins. -/
theorem insertedWord_overwrite :
    insertedWord (insertedWord word w l value) w l value' = insertedWord word w l value' := by
  apply BitVec.eq_of_getLsbD_eq
  intro i hi
  simp only [getLsbD_insertedWord _ _ _ _ hi]
  split <;> rfl

/-- Insertions into disjoint fields commute. -/
theorem insertedWord_comm (h : l + w ≤ l' ∨ l' + w' ≤ l) :
    insertedWord (insertedWord word w l value) w' l' value' =
      insertedWord (insertedWord word w' l' value') w l value := by
  apply BitVec.eq_of_getLsbD_eq
  intro i hi
  simp only [getLsbD_insertedWord _ _ _ _ hi]
  by_cases hfirst : l ≤ i ∧ i < l + w
  case pos => rw [if_pos hfirst, if_pos hfirst, if_neg (by omega)]
  case neg => rw [if_neg hfirst, if_neg hfirst]

/-- A value that has the field's own bits changes nothing. -/
theorem insertedWord_eq_self (h : ∀ k < w, value.getLsbD k = word.getLsbD (l + k)) :
    insertedWord word w l value = word := by
  apply BitVec.eq_of_getLsbD_eq
  intro i hi
  rw [getLsbD_insertedWord word value w l hi]
  split
  next hfield => rw [h _ (by omega), Nat.add_sub_cancel' hfield.1]
  next => rfl

/-- The field that is the whole Word. -/
theorem insertedWord_sixtyFour : insertedWord word 64 0 value = value := by
  apply BitVec.eq_of_getLsbD_eq
  intro i hi
  rw [getLsbD_insertedWord word value 64 0 hi, if_pos ⟨Nat.zero_le i, by omega⟩, Nat.sub_zero]

end

/-! ### Reading the field back (R89) -/

section
variable (word value : Word) (f : FieldRange)

theorem extractUnsigned_insertedWord :
    extractUnsigned (insertedWord word f.width f.lsb value) f = trunc value f.widthAmount := by
  apply BitVec.eq_of_getLsbD_eq
  intro k _
  rw [getLsbD_extractUnsigned, getLsbD_trunc, widthAmount_val]
  by_cases hk : k < f.width
  case pos => rw [getLsbD_insertedWord_inside word value f.width f.lsb hk f.fits]
  case neg => rw [decide_eq_false hk, Bool.false_and, Bool.false_and]

theorem extractSigned_insertedWord (h : f.widthAmount ≠ 0) :
    extractSigned (insertedWord word f.width f.lsb value) f = sext value f.widthAmount h := by
  have hpos : 1 ≤ f.width := amount_pos_of_ne_zero h
  apply BitVec.eq_of_getLsbD_eq
  intro k hk
  rw [getLsbD_extractSigned _ f hpos hk, getLsbD_sext value h hk, widthAmount_val]
  split
  next hkw => exact getLsbD_insertedWord_inside word value f.width f.lsb hkw f.fits
  next =>
    rw [Nat.add_sub_assoc hpos]
    exact getLsbD_insertedWord_inside word value f.width f.lsb (Nat.sub_one_lt_of_lt hpos) f.fits

end

/-! ### The inserted Word as a number (R80) -/

/-- A number is the part below a field, the field, and the part above it. -/
theorem nat_eq_parts (n l w : Nat) :
    n = n % 2 ^ l + n / 2 ^ l % 2 ^ w * 2 ^ l + n / 2 ^ (l + w) * 2 ^ (l + w) := by
  have hlow := Nat.mod_add_div n (2 ^ l)
  have hhigh := Nat.mod_add_div (n / 2 ^ l) (2 ^ w)
  rw [Nat.div_div_eq_div_mul, ← Nat.pow_add] at hhigh
  calc n = n % 2 ^ l + 2 ^ l * (n / 2 ^ l) := hlow.symm
    _ = n % 2 ^ l + 2 ^ l * (n / 2 ^ l % 2 ^ w + 2 ^ w * (n / 2 ^ (l + w))) := by rw [hhigh]
    _ = n % 2 ^ l + n / 2 ^ l % 2 ^ w * 2 ^ l + n / 2 ^ (l + w) * 2 ^ (l + w) := by ring

section
variable (word value : Word) (f : FieldRange)

/-- The part below the field is that of `word`. -/
theorem insertedWord_low :
    (insertedWord word f.width f.lsb value).toNat % 2 ^ f.lsb = word.toNat % 2 ^ f.lsb := by
  have h : trunc (insertedWord word f.width f.lsb value) f.lsbAmount = trunc word f.lsbAmount := by
    apply BitVec.eq_of_getLsbD_eq
    intro i _
    rw [getLsbD_trunc, getLsbD_trunc, lsbAmount_val]
    by_cases hi : i < f.lsb
    case pos => rw [getLsbD_insertedWord_outside word value _ _ (.inl hi)]
    case neg => rw [decide_eq_false hi, Bool.false_and, Bool.false_and]
  have hnat := congrArg BitVec.toNat h
  rwa [toNat_trunc, toNat_trunc, lsbAmount_val] at hnat

/-- The part above the field is that of `word`. -/
theorem insertedWord_high : (insertedWord word f.width f.lsb value).toNat / 2 ^ (f.lsb + f.width) =
    word.toNat / 2 ^ (f.lsb + f.width) := by
  have h : lsr (insertedWord word f.width f.lsb value) f.endAmount = lsr word f.endAmount := by
    apply BitVec.eq_of_getLsbD_eq
    intro i _
    rw [getLsbD_lsr, getLsbD_lsr, endAmount_val,
      getLsbD_insertedWord_outside word value _ _ (.inr (Nat.le_add_right _ _))]
  have hnat := congrArg BitVec.toNat h
  rwa [toNat_lsr, toNat_lsr, endAmount_val] at hnat

/-- The field of the inserted Word holds the low bits of the value. -/
theorem insertedWord_field : (insertedWord word f.width f.lsb value).toNat / 2 ^ f.lsb % 2 ^ f.width =
    value.toNat % 2 ^ f.width := by
  rw [← toNat_extractUnsigned, extractUnsigned_insertedWord, toNat_trunc, widthAmount_val]

/-- A value that fits takes the place of the field's number. -/
theorem toNat_insertedWord (h : value.toNat < 2 ^ f.width) :
    ((insertedWord word f.width f.lsb value).toNat : Int) = word.toNat -
      (word.toNat / 2 ^ f.lsb % 2 ^ f.width * 2 ^ f.lsb : Nat) + (value.toNat * 2 ^ f.lsb : Nat) := by
  have hold := nat_eq_parts word.toNat f.lsb f.width
  have hnew := nat_eq_parts (insertedWord word f.width f.lsb value).toNat f.lsb f.width
  rw [insertedWord_low, insertedWord_field, insertedWord_high, Nat.mod_eq_of_lt h] at hnew
  omega

end

end Sys2Proof.Machine
end

section
/-! PROOFS. The two insertions as one operation that differs in its predicate alone, their contracts, and their laws
(43_field_insertion.md R80 to R92). -/

namespace Sys2Proof.Machine

/-! ### The merge (R81, R84) -/

section
variable (word pattern : Word) (f : FieldRange) {i : Nat}

theorem getLsbD_leftPart (hi : i < 64) :
    (leftPart word f).getLsbD i = (decide (f.lsb + f.width ≤ i) && word.getLsbD i) := by
  rw [leftPart]
  split
  next htop => rw [BitVec.getLsbD_zero, decide_eq_false (by omega), Bool.false_and]
  next => exact getLsbD_left word f.endAmount hi

theorem getLsbD_rightPart (i : Nat) : (rightPart word f).getLsbD i = (decide (i < f.lsb) && word.getLsbD i) := by
  rw [rightPart]
  split
  next hzero => rw [BitVec.getLsbD_zero, decide_eq_false (by omega), Bool.false_and]
  next => rw [right_eq_trunc, getLsbD_trunc, lsbAmount_val]

/-- A pattern with no bit above the field's width stands in the field alone, so that each place takes its bit from exactly
one of the three parts. -/
theorem mergeField_eq_insertedWord (h : trunc pattern f.widthAmount = pattern) :
    mergeField word f pattern = insertedWord word f.width f.lsb pattern := by
  apply BitVec.eq_of_getLsbD_eq
  intro i hi
  have habove : f.lsb + f.width ≤ i → pattern.getLsbD (i - f.lsb) = false := by
    intro hge
    rw [← h, getLsbD_trunc, widthAmount_val, decide_eq_false (by omega), Bool.false_and]
  rw [mergeField, BitVec.getLsbD_or, BitVec.getLsbD_or, getLsbD_leftPart word f hi, getLsbD_rightPart, getLsbD_shl,
    lsbAmount_val, decide_eq_true hi, Bool.true_and, getLsbD_insertedWord word pattern _ _ hi]
  rcases Nat.lt_or_ge i f.lsb with hbelow | hge
  · rw [if_neg (by omega), decide_eq_false (by omega), decide_eq_true hbelow]
    simp
  · rcases Nat.lt_or_ge i (f.lsb + f.width) with hinside | htop
    · rw [if_pos ⟨hge, hinside⟩, decide_eq_false (by omega), decide_eq_false (by omega)]
      simp
    · rw [if_neg (by omega), decide_eq_true htop, decide_eq_false (by omega), habove htop]
      simp

theorem trunc_trunc (w : Amount) : trunc (trunc pattern w) w = trunc pattern w := by
  apply BitVec.eq_of_getLsbD_eq
  intro k _
  rw [getLsbD_trunc, getLsbD_trunc, ← Bool.and_assoc, Bool.and_self]

/-- Of a value only the bits below the field's width are inserted. -/
theorem insertedWord_trunc :
    insertedWord word f.width f.lsb (trunc pattern f.widthAmount) = insertedWord word f.width f.lsb pattern := by
  apply BitVec.eq_of_getLsbD_eq
  intro i hi
  rw [getLsbD_insertedWord _ _ _ _ hi, getLsbD_insertedWord _ _ _ _ hi]
  split
  next h => rw [getLsbD_trunc, widthAmount_val, decide_eq_true (by omega), Bool.true_and]
  next => rfl

end

/-! ### One operation with a predicate (R91, R93) -/

/-- What both insertions are: the descriptor check, the predicate on the value, and the inserted Word. -/
def insertion (fits : Word → Nat → Bool) (word width lsb value : Word) : Response :=
  if descOk width lsb then
    if fits value (valU width) then .ok (insertedWord word (valU width) (valU lsb) value) else .noFit
  else .fatal .descriptor

theorem putUnsigned_eq_insertion : putUnsigned = insertion fitsUnsignedSpec := by
  funext word width lsb value
  cases hd : descOk width lsb with
  | false => rw [putUnsigned_of_malformed word value hd, insertion, hd]; rfl
  | true =>
    obtain ⟨f, hf, hw, hl⟩ := exists_field hd
    rw [putUnsigned_of_field word value hf, insertion, if_pos hd, valU, valU, ← hw, ← hl, fitsUnsignedBit_eq_spec,
      widthAmount_val]
    split
    next hfits =>
      have hpattern := (trunc_eq_self_iff value f.widthAmount).mpr (fitsUnsignedSpec_iff_lt.mp hfits).2
      rw [mergeField_eq_insertedWord word value f hpattern]
    next => rfl

theorem putSigned_eq_insertion : putSigned = insertion fitsSignedSpec := by
  funext word width lsb value
  cases hd : descOk width lsb with
  | false => rw [putSigned_of_malformed word value hd, insertion, hd]; rfl
  | true =>
    obtain ⟨f, hf, hw, hl⟩ := exists_field hd
    rw [putSigned_of_field word value hf, insertion, if_pos hd, valU, valU, ← hw, ← hl, fitsSignedBit_eq_spec,
      widthAmount_val, mergeField_eq_insertedWord word _ f (trunc_trunc value f.widthAmount), insertedWord_trunc]

/-- Either insertion is an insertion with its predicate. -/
theorem exists_insertion {put : Word → Word → Word → Word → Response} (h : put = putUnsigned ∨ put = putSigned) :
    ∃ fits, put = insertion fits := by
  obtain rfl | rfl := h
  · exact ⟨_, putUnsigned_eq_insertion⟩
  · exact ⟨_, putSigned_eq_insertion⟩

section
variable {fits : Word → Nat → Bool} {word width lsb value r : Word}

theorem insertion_of_fits (hd : descOk width lsb = true) (hfits : fits value (valU width) = true) :
    insertion fits word width lsb value = .ok (insertedWord word (valU width) (valU lsb) value) := by
  rw [insertion, if_pos hd, if_pos hfits]

theorem insertion_of_not_fits (hd : descOk width lsb = true) (hfits : fits value (valU width) = false) :
    insertion fits word width lsb value = .noFit := by
  rw [insertion, if_pos hd, hfits]; rfl

theorem insertion_of_malformed (hd : descOk width lsb = false) :
    insertion fits word width lsb value = .fatal .descriptor := by
  rw [insertion, hd]; rfl

theorem insertion_eq_ok_iff : insertion fits word width lsb value = .ok r ↔
    descOk width lsb = true ∧ fits value (valU width) = true ∧ r = insertedWord word (valU width) (valU lsb) value := by
  constructor
  · intro h
    cases hd : descOk width lsb with
    | false => rw [insertion_of_malformed hd] at h; cases h
    | true =>
      cases hfits : fits value (valU width) with
      | false => rw [insertion_of_not_fits hd hfits] at h; cases h
      | true => rw [insertion_of_fits hd hfits] at h; cases h; exact ⟨rfl, rfl, rfl⟩
  · rintro ⟨hd, hfits, rfl⟩
    exact insertion_of_fits hd hfits

theorem descOk_of_insertion_eq_noFit (h : insertion fits word width lsb value = .noFit) : descOk width lsb = true := by
  cases hd : descOk width lsb with
  | false => rw [insertion_of_malformed hd] at h; cases h
  | true => rfl

end

/-! ### The contracts (R80, R82) -/

theorem not_fitsUnsignedSpec_iff {value : Word} {w : Nat} :
    fitsUnsignedSpec value w = false ↔ w = 0 ∨ valU value > 2 ^ w - 1 := by
  rw [← Bool.not_eq_true, fitsUnsignedSpec_iff]
  omega

theorem not_fitsSignedSpec_iff {value : Word} {w : Nat} : fitsSignedSpec value w = false ↔
    w = 0 ∨ valS value < -(2 : Int) ^ (w - 1) ∨ valS value > (2 : Int) ^ (w - 1) - 1 := by
  rw [← Bool.not_eq_true, fitsSignedSpec_iff]
  omega

theorem putUnsigned_eq_contract (word width lsb value : Word) :
    putUnsigned word width lsb value = putUnsignedContract word width lsb value := by
  rw [putUnsigned_eq_insertion, insertion, putUnsignedContract]
  simp only [← not_fitsUnsignedSpec_iff]
  cases fitsUnsignedSpec value (valU width) <;> rfl

theorem putSigned_eq_contract (word width lsb value : Word) :
    putSigned word width lsb value = putSignedContract word width lsb value := by
  rw [putSigned_eq_insertion, insertion, putSignedContract]
  simp only [← not_fitsSignedSpec_iff]
  cases fitsSignedSpec value (valU width) <;> rfl

/-- Settles O43: the two functions choose the same row, and in each row the datapath meets its contract. -/
theorem datapathsMeetContracts : Obligations.DatapathsMeetContracts := by
  intro r
  simp only [blockF, contractF, fitsUnsigned_eq_contract, fitsSigned_eq_contract, getUnsigned_eq_contract,
    getSigned_eq_contract, putUnsigned_eq_contract, putSigned_eq_contract]

/-- Settles O23: a value that fits is inserted whole, so it takes the place of the field's number. -/
theorem putUnsignedMeetsContract : Obligations.PutUnsignedMeetsContract := by
  rintro s r w l hv hop rfl rfl
  refine ⟨decodeRequest_eq_putUnsigned hv hop, fun h hfits => ?ok, fun h hfits => answers_of_exec ?noFit rfl,
    fun h => (endsFatal_put r.word r.value s (descOk_eq_false h)).1⟩
  case ok =>
    have hspec := fitsUnsignedSpec_iff.mpr hfits
    obtain ⟨f, -, hw, hl⟩ := exists_field (descOk_iff_le.mpr h)
    refine ⟨_, answers_of_exec ?_ rfl, fun k hk => getLsbD_insertedWord r.word r.value _ _ hk, ?number⟩
    · rw [exec_putUnsigned, putUnsigned_eq_insertion, insertion_of_fits (descOk_iff_le.mpr h) hspec]
    case number =>
      rw [valU, valU, valU, valU, valU, ← hw, ← hl]
      exact toNat_insertedWord r.word r.value f (hw ▸ (fitsUnsignedSpec_iff_lt.mp hspec).2)
  case noFit =>
    rw [exec_putUnsigned, putUnsigned_eq_insertion,
      insertion_of_not_fits (descOk_iff_le.mpr h) (not_fitsUnsignedSpec_iff.mpr hfits)]

/-- Settles O24: the field holds the low bits of a value that fits, which are its signed reading modulo 2^width. -/
theorem putSignedMeetsContract : Obligations.PutSignedMeetsContract := by
  rintro s r w l hv hop rfl rfl
  refine ⟨decodeRequest_eq_putSigned hv hop, fun h hfits => ?ok, fun h hfits => answers_of_exec ?noFit rfl,
    fun h => (endsFatal_put r.word r.value s (descOk_eq_false h)).2⟩
  case ok =>
    have hspec := fitsSignedSpec_iff.mpr hfits
    obtain ⟨f, -, hw, hl⟩ := exists_field (descOk_iff_le.mpr h)
    refine ⟨_, answers_of_exec ?_ rfl, fun k hk => getLsbD_insertedWord r.word r.value _ _ hk, ?number⟩
    · rw [exec_putSigned, putSigned_eq_insertion, insertion_of_fits (descOk_iff_le.mpr h) hspec]
    case number =>
      rw [valU, valU, valU, ← hw, ← hl, insertedWord_field]
      exact (valS_emod r.value f.widthAmount).symm
  case noFit =>
    rw [exec_putSigned, putSigned_eq_insertion,
      insertion_of_not_fits (descOk_iff_le.mpr h) (not_fitsSignedSpec_iff.mpr hfits)]

/-! ### The edges (R84, R86, R87), and the order of the checks (R88) -/

theorem put_of_width_sixtyFour {width lsb : Word} (word value : Word) (hd : descOk width lsb = true)
    (hw : valU width = 64) :
    putUnsigned word width lsb value = .ok value ∧ putSigned word width lsb value = .ok value := by
  obtain ⟨-, hsum⟩ := descOk_iff_le.mp hd
  have hlsb : valU lsb = 0 := by omega
  rw [putUnsigned_eq_insertion, putSigned_eq_insertion,
    insertion_of_fits hd (hw ▸ fitsUnsignedSpec_sixtyFour value),
    insertion_of_fits hd (hw ▸ fitsSignedSpec_sixtyFour value), hw, hlsb, insertedWord_sixtyFour]
  exact ⟨rfl, rfl⟩

/-- Settles O35: at width 64 the value is the whole Word, at width 0 no value fits, and a field at an edge of the Word has
no part on that side. -/
theorem insertionAtEdges : Obligations.InsertionAtEdges := by
  intro s word lsb value f
  have hwhole := put_of_width_sixtyFour (width := 64#64) (lsb := 0#64) word value (descOk_iff.mpr (by decide)) rfl
  refine ⟨⟨answers_of_exec ?_ rfl, answers_of_exec ?_ rfl⟩, fun h => ⟨answers_of_exec ?_ rfl, answers_of_exec ?_ rfl⟩,
    fun h => ?bottom, fun h => ?top⟩
  · rw [exec_putUnsigned, hwhole.1]
  · rw [exec_putSigned, hwhole.2]
  · rw [exec_putUnsigned, (put_of_width_zero word value h).1]
  · rw [exec_putSigned, (put_of_width_zero word value h).2]
  case bottom =>
    have hright : rightPart word f = 0#64 := if_pos h
    have hamount : f.lsbAmount = 0 := Fin.ext h
    exact ⟨hright, by rw [mergeField, hright, hamount, shl_zero, BitVec.or_zero]⟩
  case top =>
    have hleft : leftPart word f = 0#64 := if_pos h
    exact ⟨hleft, by rw [mergeField, hleft, BitVec.zero_or]⟩

/-- Settles O36: inverting twice fills with ones and removes them again, which is truncation; and a value that is its own
sign extension has zeros above the field where its sign is 0. -/
theorem negativePatternIsTruncation : Obligations.NegativePatternIsTruncation := by
  intro value w hfits
  refine ⟨fun _ => ?negative, fun hsign => ?nonNegative⟩
  case negative =>
    apply BitVec.eq_of_getLsbD_eq
    intro k _
    rw [getLsbD_lsr, complement_val, getLsbD_trunc, BitVec.getLsbD_not]
    by_cases hk : k < w.val
    case pos =>
      have hplace : 64 - w.val + k < 64 := by omega
      rw [getLsbD_shl_complement _ hk, BitVec.getLsbD_not, decide_eq_true hplace, decide_eq_true hk,
        decide_eq_true (show k < 64 by omega)]
      simp
    case neg => rw [decide_eq_false hk, decide_eq_false (by omega), Bool.false_and, Bool.false_and]
  case nonNegative =>
    rw [fitsSignedBit_eq_spec, fitsSignedSpec_iff, val_ne_zero_iff] at hfits
    obtain ⟨hne, hrange⟩ := hfits
    have hbits := (sext_eq_self_iff_bits value hne).mp ((sext_eq_self_iff_range value hne).mpr hrange)
    apply BitVec.eq_of_getLsbD_eq
    intro k hk
    rw [getLsbD_trunc]
    by_cases hkw : k < w.val
    case pos => rw [decide_eq_true hkw, Bool.true_and]
    case neg => rw [decide_eq_false hkw, Bool.false_and, hbits k (by omega) hk, hsign]

/-- Settles O37: the value is asked only where the descriptor has passed. -/
theorem descriptorCheckComesFirst : Obligations.DescriptorCheckComesFirst := by
  refine ⟨fun s word width lsb value h => endsFatal_put word value s h, fun word width lsb value h => ?wellFormed,
    putUnsigned_of_malformed 0 99 (descOk_eq_false (by decide)), ?noFit⟩
  case wellFormed =>
    rw [putUnsigned_eq_insertion, putSigned_eq_insertion] at h
    exact h.elim descOk_of_insertion_eq_noFit descOk_of_insertion_eq_noFit
  case noFit =>
    rw [putUnsigned_eq_insertion]
    exact insertion_of_not_fits (descOk_iff.mpr (by decide)) (not_fitsUnsignedSpec_iff.mpr (by decide))

/-! ### Round trips (R89) -/

section
variable {fits : Word → Nat → Bool} {word width lsb value r : Word} {w : Amount}

/-- After either insertion the unsigned extraction reads the low bits of the value. -/
theorem getUnsigned_after_insertion (h : insertion fits word width lsb value = .ok r) (hw : w.val = valU width) :
    getUnsigned r width lsb = .ok (trunc value w) := by
  obtain ⟨hd, -, rfl⟩ := insertion_eq_ok_iff.mp h
  obtain ⟨f, hf, hfw, hfl⟩ := exists_field hd
  obtain rfl : f.widthAmount = w := Fin.ext (hfw.trans hw.symm)
  rw [getUnsigned_of_field _ hf, valU, valU, ← hfw, ← hfl, extractUnsigned_insertedWord]

/-- After either insertion the signed extraction reads the sign extension of the value. -/
theorem getSigned_after_insertion (h : insertion fits word width lsb value = .ok r) (hw : w.val = valU width)
    (hne : w ≠ 0) : getSigned r width lsb = .ok (sext value w hne) := by
  obtain ⟨hd, -, rfl⟩ := insertion_eq_ok_iff.mp h
  obtain ⟨f, hf, hfw, hfl⟩ := exists_field hd
  obtain rfl : f.widthAmount = w := Fin.ext (hfw.trans hw.symm)
  rw [getSigned_of_field _ hf, valU, valU, ← hfw, ← hfl, extractSigned_insertedWord word value f hne]

end

/-- Settles O38: truncation keeps a value that fits unsigned, and sign extension one that fits signed. -/
theorem putThenGetReturnsValue : Obligations.PutThenGetReturnsValue := by
  intro s s' word width lsb value hd hpos
  obtain ⟨w, -, hw⟩ := exists_width (widthOk_iff.mpr (width_le_of_descOk hd))
  have hne : w ≠ 0 := val_ne_zero_iff.mp (hw.trans_ne (Nat.ne_of_gt hpos))
  refine ⟨fun hfits => ?unsigned, fun hfits => ?signed⟩
  case unsigned =>
    rw [fitsUnsigned_of_le (width_le_of_descOk hd), ok_boolResult_eq_one_iff] at hfits
    obtain ⟨r, hput⟩ : ∃ r, insertion fitsUnsignedSpec word width lsb value = .ok r :=
      ⟨_, insertion_of_fits hd hfits⟩
    have hkept := (trunc_eq_self_iff value w).mpr (hw ▸ (fitsUnsignedSpec_iff_lt.mp hfits).2)
    refine ⟨r, answers_of_exec ?_ rfl, answers_of_exec ?_ rfl⟩
    · rw [exec_putUnsigned, putUnsigned_eq_insertion, hput]
    · rw [exec_getUnsigned, getUnsigned_after_insertion hput hw, hkept]
  case signed =>
    rw [fitsSigned_of_le (width_le_of_descOk hd), ok_boolResult_eq_one_iff] at hfits
    obtain ⟨r, hput⟩ : ∃ r, insertion fitsSignedSpec word width lsb value = .ok r :=
      ⟨_, insertion_of_fits hd hfits⟩
    have hkept := (sext_eq_self_iff_range value hne).mpr (hw ▸ (fitsSignedSpec_iff.mp hfits).2)
    refine ⟨r, answers_of_exec ?_ rfl, answers_of_exec ?_ rfl⟩
    · rw [exec_putSigned, putSigned_eq_insertion, hput]
    · rw [exec_getSigned, getSigned_after_insertion hput hw hne, hkept]

/-- Settles O39: what an extraction reads back does not depend on the predicate of the insertion. -/
theorem mixedRoundTripsConvert : Obligations.MixedRoundTripsConvert := by
  intro word width lsb value r w hne hw
  rw [putUnsigned_eq_insertion, putSigned_eq_insertion]
  exact ⟨fun h => getUnsigned_after_insertion h hw, fun h => getSigned_after_insertion h hw hne⟩

/-! ### What an insertion keeps (R90), and the values that both accept (R91) -/

/-- Settles O40: the places outside the field are those of `word`, and an extraction reads its own field alone. -/
theorem insertionKeepsOutsideBits : Obligations.InsertionKeepsOutsideBits := by
  intro word width lsb value r h
  obtain ⟨fits, hput⟩ : ∃ fits, insertion fits word width lsb value = .ok r := by
    rw [putUnsigned_eq_insertion, putSigned_eq_insertion] at h
    exact h.elim (⟨_, ·⟩) (⟨_, ·⟩)
  obtain ⟨-, -, rfl⟩ := insertion_eq_ok_iff.mp hput
  refine ⟨fun i _ hi => getLsbD_insertedWord_outside word value _ _ hi, fun width' lsb' hdisjoint => ?_⟩
  exact get_congr fun i hge hlt => getLsbD_insertedWord_outside word value _ _ (by omega)

/-- The values below half the range of a field that is not the whole Word are those that fit both ways. -/
theorem fits_both_iff {value : Word} {w : Nat} (hpos : 1 ≤ w) (hw : w ≤ 63) :
    fitsUnsignedSpec value w = true ∧ fitsSignedSpec value w = true ↔
      ∀ i, w - 1 ≤ i → i < 64 → value.getLsbD i = false := by
  rw [fitsUnsignedSpec_iff_lt, fitsSignedSpec_iff]
  have hpow : 2 ^ w = 2 * 2 ^ (w - 1) := by rw [← Nat.pow_succ', Nat.succ_eq_add_one, Nat.sub_add_cancel hpos]
  have hle : 2 ^ w ≤ 2 ^ 63 := Nat.pow_le_pow_right (by decide) hw
  have hcast : ((2 ^ (w - 1) : Nat) : Int) = 2 ^ (w - 1) := by push_cast; rfl
  have hclear (h : value.toNat < 2 ^ 63) : value.getLsbD 63 = false := Nat.testBit_lt_two_pow h
  constructor
  · rintro ⟨⟨-, hlt⟩, -, -, hhalf⟩ i hwi _
    rw [valS_of_sign_clear (hclear (by omega))] at hhalf
    have hlow : value.toNat < 2 ^ (w - 1) := by omega
    exact Nat.testBit_lt_two_pow (hlow.trans_le (Nat.pow_le_pow_right (by decide) hwi))
  · intro hbits
    have hlow : value.toNat < 2 ^ (w - 1) := by
      refine Nat.lt_pow_two_of_testBit _ fun i hi => ?_
      by_cases hlt : i < 64
      case pos => exact hbits i hi hlt
      case neg => exact BitVec.getLsbD_of_ge value i (Nat.not_lt.mp hlt)
    rw [valS_of_sign_clear (hclear (by omega))]
    omega

/-- Settles O41: the inserted Word does not depend on the predicate, and the two predicates hold together on half of the
unsigned range. -/
theorem insertionsDifferInPredicateOnly : Obligations.InsertionsDifferInPredicateOnly := by
  intro word width lsb value
  refine ⟨fun a b ha hb => ?same, fun hd hpos hw => ?both, put_of_width_sixtyFour word value⟩
  case same =>
    rw [putUnsigned_eq_insertion] at ha
    rw [putSigned_eq_insertion] at hb
    obtain ⟨-, -, rfl⟩ := insertion_eq_ok_iff.mp ha
    obtain ⟨-, -, rfl⟩ := insertion_eq_ok_iff.mp hb
    rfl
  case both =>
    rw [← fits_both_iff hpos hw, putUnsigned_eq_insertion, putSigned_eq_insertion]
    simp only [insertion_eq_ok_iff, hd, true_and, exists_and_left, exists_eq, and_true]

/-! ### The laws of a field (R92) -/

section
variable {fits fits' : Word → Nat → Bool} {word width lsb value r width' lsb' value' r' : Word}

theorem insertion_twice (h : insertion fits word width lsb value = .ok r) :
    insertion fits r width lsb value = .ok r := by
  obtain ⟨hd, hfits, rfl⟩ := insertion_eq_ok_iff.mp h
  rw [insertion_of_fits hd hfits, insertedWord_overwrite]

theorem insertion_overwrites (h : insertion fits word width lsb value = .ok r)
    (h' : insertion fits' r width lsb value' = .ok r') : insertion fits' word width lsb value' = .ok r' := by
  obtain ⟨-, -, rfl⟩ := insertion_eq_ok_iff.mp h
  obtain ⟨hd, hfits, rfl⟩ := insertion_eq_ok_iff.mp h'
  rw [insertion_of_fits hd hfits, insertedWord_overwrite]

theorem insertions_commute
    (hdisjoint : valU lsb + valU width ≤ valU lsb' ∨ valU lsb' + valU width' ≤ valU lsb)
    (h : insertion fits word width lsb value = .ok r) (h' : insertion fits' word width' lsb' value' = .ok r') :
    ∃ both, insertion fits' r width' lsb' value' = .ok both ∧ insertion fits r' width lsb value = .ok both := by
  obtain ⟨hd, hfits, rfl⟩ := insertion_eq_ok_iff.mp h
  obtain ⟨hd', hfits', rfl⟩ := insertion_eq_ok_iff.mp h'
  refine ⟨_, insertion_of_fits hd' hfits', ?_⟩
  rw [insertion_of_fits hd hfits, insertedWord_comm word value value' _ _ _ _ hdisjoint]

theorem putUnsigned_of_read {x : Word} (hpos : 1 ≤ valU width) (h : getUnsigned word width lsb = .ok x) :
    putUnsigned word width lsb x = .ok word := by
  obtain ⟨f, hd, hw, hl, rfl⟩ := field_of_getUnsigned h
  rw [putUnsigned_eq_insertion,
    insertion_of_fits hd (hw ▸ fitsUnsignedSpec_extractUnsigned word f (hpos.trans_eq hw.symm)), ← hw, ← hl]
  refine congrArg Response.ok (insertedWord_eq_self word _ _ _ fun k hk => ?_)
  rw [getLsbD_extractUnsigned, decide_eq_true hk, Bool.true_and]

theorem putSigned_of_read {x : Word} (hpos : 1 ≤ valU width) (h : getSigned word width lsb = .ok x) :
    putSigned word width lsb x = .ok word := by
  obtain ⟨f, hd, hw, hl, rfl⟩ := field_of_getSigned h
  have hfpos : 1 ≤ f.width := hpos.trans_eq hw.symm
  rw [putSigned_eq_insertion, insertion_of_fits hd (hw ▸ fitsSignedSpec_extractSigned word f hfpos), ← hw, ← hl]
  refine congrArg Response.ok (insertedWord_eq_self word _ _ _ fun k hk => ?_)
  rw [getLsbD_extractSigned word f hfpos (by have := f.fits; omega), if_pos hk]

end

/-- Settles O42: the laws are those of the inserted Word, whichever predicate stands before it. -/
theorem insertionsObeyFieldLaws : Obligations.InsertionsObeyFieldLaws := by
  refine ⟨fun put hput word width lsb v r h => ?_, fun word width lsb x hpos =>
    ⟨putUnsigned_of_read hpos, putSigned_of_read hpos⟩⟩
  obtain ⟨fits, rfl⟩ := exists_insertion hput
  refine ⟨insertion_twice h, fun put' hput' => ?_⟩
  obtain ⟨fits', rfl⟩ := exists_insertion hput'
  exact ⟨fun v' r' h' => insertion_overwrites h h',
    fun width' lsb' v' r' hdisjoint h' => insertions_commute hdisjoint h h'⟩

end Sys2Proof.Machine
end
